-- ==== Sys2Proof/Word.lean ====
section
/-! DEFINITION. The words of the block: the command word, the frame bit buffer, bytes, durations and bit strings. -/

namespace Sys2Proof

/-- A command word, 32 bits (R60). -/
abbrev Word := BitVec 32

/-- A frame byte `F[i]`, 8 bits (R21). -/
abbrev Byte := BitVec 8

/-- The frame bit buffer `FB`, 72 bits, `FB[8*i + j] = F[i][j]` (R21). -/
abbrev FrameBits := BitVec 72

/-- A pulse duration, 16 bits unsigned, in microseconds (R25, R79). -/
abbrev Micros := BitVec 16

/-- A bit string: `true` is the character '1', index 0 first (R12). -/
abbrev BitString := List Bool

end Sys2Proof
end

