-- ==== Sys2Proof/Config.lean ====
section
/-! DEFINITION. The configuration record CFG (R8, R9), the closed enumerations its codes are given for (R69), the symbol
alphabet (R78), and the model's free values. The values of CFG for this hardware are in Machine/Defaults.lean. -/

namespace Sys2Proof

/-- The Mode enumeration (R68, R69). -/
inductive Mode where
  | auto | cool | dry | fan | heat
  deriving DecidableEq, Repr, Inhabited

/-- The Fan enumeration (R68, R69). -/
inductive FanSpeed where
  | auto | low | medium | high
  deriving DecidableEq, Repr, Inhabited

/-- The VerticalVane enumeration (R69); the fixed positions have no physical meaning (D31). -/
inductive VVane where
  | auto | vPos1 | vPos2 | vPos3 | vPos4 | swingAll | swingLow | swingCenter | swingHigh
  deriving DecidableEq, Repr, Inhabited

/-- The HorizontalVane enumeration (R69); the fixed positions have no physical meaning (D31). -/
inductive HVane where
  | auto | hPos1 | hPos2 | hPos3 | hPos4 | hPos5 | swingAll | swingSpread
  deriving DecidableEq, Repr, Inhabited

/-- A symbol: '0', '1' or the mid-frame gap ' ' (R78). The 2-bit code `0b11` is never written by any command, so a
three-valued type holds every symbol (U18; log 12). -/
inductive Symbol where
  | zero | one | gap
  deriving DecidableEq, Repr, Inhabited

/-- The legal sources of a layout entry (R76). -/
inductive FieldSource where
  | mode | power | fan | temp | vvane | hvane | swing
  | light | sleep | timer | turbo | health | xfan | scavenging | ifeel
  | const (v : Nat)
  deriving DecidableEq, Repr

/-- One field of a byte: a source and a width in bits (R76). -/
structure LayoutEntry where
  source : FieldSource
  width : Nat
  deriving DecidableEq, Repr

/-- The fields of one byte, first listed field at the lowest bit positions (R42, R75). -/
abbrev ByteLayout := List LayoutEntry

/-- `CODE_MODE` as a table (R8, R71). -/
structure ModeCodes where
  auto : Nat
  cool : Nat
  dry : Nat
  fan : Nat
  heat : Nat
  deriving DecidableEq, Repr

/-- `CODE_FAN` as a table (R8, R71). -/
structure FanCodes where
  auto : Nat
  low : Nat
  medium : Nat
  high : Nat
  deriving DecidableEq, Repr

/-- `CODE_VV` as a table (R8, R71). -/
structure VVaneCodes where
  auto : Nat
  vPos1 : Nat
  vPos2 : Nat
  vPos3 : Nat
  vPos4 : Nat
  swingAll : Nat
  swingLow : Nat
  swingCenter : Nat
  swingHigh : Nat
  deriving DecidableEq, Repr

/-- `CODE_HV` as a table (R8, R71). -/
structure HVaneCodes where
  auto : Nat
  hPos1 : Nat
  hPos2 : Nat
  hPos3 : Nat
  hPos4 : Nat
  hPos5 : Nat
  swingAll : Nat
  swingSpread : Nat
  deriving DecidableEq, Repr

/-- The named constants of R9 that are fields of CFG. `N_BYTES`, `N_SYM` and `N_PULSE` are fixed by the spec (R8) and
stand as the sizes 72 = 9 * 8, 68 and 140 of the state's registers. -/
structure Constants where
  tempMin : Nat
  tempMax : Nat
  tempBias : Nat
  csumBias : Nat
  hdrMark : Nat
  hdrSpace : Nat
  bitMark : Nat
  oneSpace : Nat
  zeroSpace : Nat
  gapSpace : Nat
  trailMark : Nat
  trailSpace : Nat
  deriving DecidableEq, Repr

/-- The configuration record CFG (R8): a parameter of the machine, fixed before reset and never written (R32). -/
structure Config where
  layout : List ByteLayout
  codeMode : ModeCodes
  codeFan : FanCodes
  codeVV : VVaneCodes
  codeHV : HVaneCodes
  consts : Constants
  deriving DecidableEq, Repr

/-- FREE VALUE: entry `k` of `S` after the `n`th reset event of a run. The spec: "unspecified", "any value" (R31, U17;
log 6). -/
opaque Config.unspecifiedSymbol : Nat → Nat → Symbol

/-- FREE VALUE: entry `k` of `PB` after the `n`th reset event of a run. The spec: "unspecified", "any value" (R31, U17;
log 6). -/
opaque Config.unspecifiedPulse : Nat → Nat → Micros

end Sys2Proof
end

