-- ==== Sys2Proof/Syntax.lean ====
section
/-! DEFINITION. The twelve commands of IRFB-CMD v1 (R62) as syntax. -/

namespace Sys2Proof

/-- The parameter word `PW` of `BUILD` and `ENCODE` without its reserved bits (R68). The enumerant fields are tags, legal
or reserved: a reserved tag is a fault of the command (R70), not of the decoder (R63). -/
structure ParamWord where
  temp : BitVec 8
  mode : BitVec 3
  power : Bool
  fan : BitVec 2
  vv : BitVec 4
  hv : BitVec 3
  deriving DecidableEq, Repr

/-- One constructor per row of the opcode table (R62). -/
inductive Instr where
  | nop
  | clrb
  | put (w : BitVec 4) (v : Byte)
  | csum
  | build (p : ParamWord)
  | sym
  | pulse
  | encode (p : ParamWord)
  | rdf (i : Byte)
  | rds (i : Byte)
  | rdp (i : Byte)
  | rdst
  deriving DecidableEq, Repr

end Sys2Proof
end

