-- ==== Sys2Proof/WellFormed.lean ====
section
/-! DEFINITION. Well-formed commands (the operand range conditions of R63, R66) and well-formed configurations (R10). -/

namespace Sys2Proof

/-- The operand range conditions of R63 (see R66): the width of a `PUT` is 1..8 and a read index lies in its space. -/
def Instr.wf : Instr → Bool
  | .nop => true
  | .clrb => true
  | .put w _ => decide (1 ≤ w.toNat) && decide (w.toNat ≤ 8)
  | .csum => true
  | .build _ => true
  | .sym => true
  | .pulse => true
  | .encode _ => true
  | .rdf i => decide (i.toNat ≤ 8)
  | .rds i => decide (i.toNat ≤ 67)
  | .rdp i => decide (i.toNat ≤ 139)
  | .rdst => true

/-- Every code of the table, in the order of R69. -/
def ModeCodes.all (c : ModeCodes) : List Nat := [c.auto, c.cool, c.dry, c.fan, c.heat]

/-- Every code of the table, in the order of R69. -/
def FanCodes.all (c : FanCodes) : List Nat := [c.auto, c.low, c.medium, c.high]

/-- Every code of the table, in the order of R69. -/
def VVaneCodes.all (c : VVaneCodes) : List Nat :=
  [c.auto, c.vPos1, c.vPos2, c.vPos3, c.vPos4, c.swingAll, c.swingLow, c.swingCenter, c.swingHigh]

/-- Every code of the table, in the order of R69. -/
def HVaneCodes.all (c : HVaneCodes) : List Nat :=
  [c.auto, c.hPos1, c.hPos2, c.hPos3, c.hPos4, c.hPos5, c.swingAll, c.swingSpread]

/-- R10 (a): exactly 8 byte layouts. -/
def Config.layoutHasEightBytes (c : Config) : Bool := decide (c.layout.length = 8)

/-- R10 (b) for one byte: every width is in 1..8 and the widths sum to exactly 8. -/
def ByteLayout.widthsOk (b : ByteLayout) : Bool :=
  b.all (fun e => decide (1 ≤ e.width) && decide (e.width ≤ 8)) && decide ((b.map (·.width)).sum = 8)

/-- R10 (c): every code is in 0..15. -/
def Config.codesFitFourBits (c : Config) : Bool :=
  (c.codeMode.all ++ c.codeFan.all ++ c.codeVV.all ++ c.codeHV.all).all (fun v => decide (v ≤ 15))

/-- R10 (d) and (e) for one field: the codes of an enumeration fit the field's width, and a literal is in 0..255. -/
def Config.fieldOk (c : Config) (e : LayoutEntry) : Bool :=
  match e.source with
  | .mode => c.codeMode.all.all (fun v => decide (v < 2 ^ e.width))
  | .fan => c.codeFan.all.all (fun v => decide (v < 2 ^ e.width))
  | .vvane => c.codeVV.all.all (fun v => decide (v < 2 ^ e.width))
  | .hvane => c.codeHV.all.all (fun v => decide (v < 2 ^ e.width))
  | .const v => decide (v ≤ 255)
  | _ => true

/-- Every duration of R9. -/
def Constants.durations (k : Constants) : List Nat :=
  [k.hdrMark, k.hdrSpace, k.bitMark, k.oneSpace, k.zeroSpace, k.gapSpace, k.trailMark, k.trailSpace]

/-- The conditions on the constants: every duration fits 16 bits (D28), and the temperature bias is at most the lowest
legal temperature, so that the subtraction of R101 is never negative (DESIGN CHOICE, safe; log 3). -/
def Constants.ok (k : Constants) : Bool :=
  k.durations.all (fun d => decide (d < 65536)) && decide (k.tempBias ≤ k.tempMin)

/-- A well-formed configuration: R10 (a) to (e), and the conditions on the constants. -/
def Config.wf (c : Config) : Bool :=
  c.layoutHasEightBytes && c.layout.all ByteLayout.widthsOk && c.codesFitFourBits
    && c.layout.all (fun b => b.all c.fieldOk) && c.consts.ok

end Sys2Proof
end

