-- ==== Sys2Proof/Machine/Defaults.lean ====
section
/-! DEFINITION. The configuration of this hardware: the constants of R9, the default codes of R72, the placeholder vane
codes of R73 and LAYOUT_DEFAULT of R75. -/

namespace Sys2Proof

/-- The constants with the values of R9 (the source's literals). -/
def Constants.source : Constants where
  tempMin := 16
  tempMax := 30
  tempBias := 16
  csumBias := 10
  hdrMark := 9211
  hdrSpace := 4605
  bitMark := 605
  oneSpace := 1684
  zeroSpace := 605
  gapSpace := 20474
  trailMark := 605
  trailSpace := 40947

/-- The default `CODE_MODE` of R72 (PRESUMED, from general knowledge: GK1; log 2). -/
def ModeCodes.default : ModeCodes where
  auto := 0
  cool := 1
  dry := 2
  fan := 3
  heat := 4

/-- The default `CODE_FAN` of R72 (PRESUMED, from general knowledge: GK1; log 2). -/
def FanCodes.default : FanCodes where
  auto := 0
  low := 1
  medium := 2
  high := 3

/-- The placeholder `CODE_VV` of R73 (PRESUMED, a placeholder: GK2; log 2). -/
def VVaneCodes.placeholder : VVaneCodes where
  auto := 0
  vPos1 := 2
  vPos2 := 3
  vPos3 := 4
  vPos4 := 5
  swingAll := 1
  swingLow := 7
  swingCenter := 9
  swingHigh := 11

/-- The placeholder `CODE_HV` of R73 (PRESUMED, a placeholder: GK2; log 2). -/
def HVaneCodes.placeholder : HVaneCodes where
  auto := 0
  hPos1 := 2
  hPos2 := 3
  hPos3 := 4
  hPos4 := 5
  hPos5 := 6
  swingAll := 1
  swingSpread := 7

/-- `LAYOUT_DEFAULT` of R75 (PRESUMED, from general knowledge: GK3; log 2). -/
def layoutDefault : List ByteLayout :=
  [ [⟨.mode, 3⟩, ⟨.power, 1⟩, ⟨.fan, 2⟩, ⟨.swing, 1⟩, ⟨.sleep, 1⟩],
    [⟨.temp, 4⟩, ⟨.timer, 4⟩],
    [⟨.const 0, 4⟩, ⟨.turbo, 1⟩, ⟨.light, 1⟩, ⟨.health, 1⟩, ⟨.xfan, 1⟩],
    [⟨.scavenging, 1⟩, ⟨.const 0, 3⟩, ⟨.const 0x5, 4⟩],
    [⟨.const 0x2, 4⟩, ⟨.const 0, 4⟩],
    [⟨.vvane, 4⟩, ⟨.hvane, 4⟩],
    [⟨.const 0, 2⟩, ⟨.ifeel, 1⟩, ⟨.const 0, 1⟩, ⟨.const 0x2, 4⟩],
    [⟨.const 0, 8⟩] ]

/-- The value of CFG "for this hardware" (R8). Claims about `State.reset` name this configuration; claims about every state
hold for every configuration. -/
def Config.irfb : Config where
  layout := layoutDefault
  codeMode := .default
  codeFan := .default
  codeVV := .placeholder
  codeHV := .placeholder
  consts := .source

end Sys2Proof
end

