-- ==== Sys2Proof/Machine/State.lean ====
section
/-! DEFINITION. The state of one IRFB instance (R20), its configuration (R8, R32), the command port and reset pin as the model
holds them, the reasons a step can stop, and the state after reset (R31). -/

namespace Sys2Proof.Machine

/-- The response codes of R161. Codes 7 to 15 are never produced (U19; log 12). -/
inductive RespCode where
  | ok | rangeError | illegalParam | illegalCommand | bufferOverflow | badFrameLength | notValid
  deriving DecidableEq, Repr

/-- A response: a code and 16 bits of data (R61). -/
structure Response where
  code : RespCode
  data : BitVec 16
  deriving DecidableEq, Repr

/-- What the outside world does to the block: the only two kinds of event are a command and a reset (R190). -/
inductive HostEvent where
  /-- The host issues a command word (R50, R60). -/
  | command (w : Word)
  /-- Reset between commands (R190). -/
  | reset
  /-- A command issued and then cut off by reset before its response (R190, U23). -/
  | commandCutOff (w : Word)
  deriving DecidableEq, Repr

/-- The machine. `fb` to `lasterr` are the complete architectural state of R20; `cfg` is the parameter of R8, never written;
`response`, `pending` and `resets` are the model's own (log 7, 8, 6). -/
structure State where
  /-- The configuration CFG (R8, R32; log 1). -/
  cfg : Config
  /-- The frame bit buffer `FB`, seen as `F[0]`..`F[8]` (R21). -/
  fb : FrameBits
  /-- `BLEN`, the number of frame bits written (R22). -/
  blen : BitVec 7
  /-- The symbol buffer `S` (R24). -/
  symbols : Vector Symbol 68
  /-- The pulse buffer `PB` (R25). -/
  pulses : Vector Micros 140
  /-- `SV`: `S` is valid (R26). -/
  sv : Bool
  /-- `PV`: `PB` is valid (R26). -/
  pv : Bool
  /-- `LASTERR` (R28). -/
  lasterr : RespCode
  /-- The response of the last command, none after a reset (R61, R190; log 8). -/
  response : Option Response
  /-- The events the outside world will bring, oldest first (R50, R199; log 7). -/
  pending : List HostEvent
  /-- How many reset events a run has taken; it indexes the free values of log 6. -/
  resets : Nat
  deriving DecidableEq, Repr

/-- The block never stops: a fault of the spec is a non-zero response and the next command runs normally (R160). So no step
ends in a fault of this type, which has no constructor (log 14). -/
inductive Fault where
  deriving DecidableEq, Repr

/-- Why the model gives a step no meaning. -/
inductive Refusal where
  /-- Raised by an arm of `exec` that has no meaning yet; there is none. Safe. -/
  | notModelled (mnemonic : String)
  /-- Raised by every step and every command when the configuration is not well-formed: the spec's own "the model refuses
  (gives no meaning to) a configuration that is not well-formed" (R10, U10; log 4). Safe. -/
  | illFormedConfig
  deriving DecidableEq, Repr

/-- The state after reset (R31, R191). The contents of `S` and `PB` are unspecified there; here they are '0' and 0
(DESIGN CHOICE, unsafe; log 5). -/
def State.reset : State where
  cfg := Config.irfb
  fb := 0
  blen := 0
  symbols := Vector.replicate 68 .zero
  pulses := Vector.replicate 140 0
  sv := false
  pv := false
  lasterr := .ok
  response := none
  pending := []
  resets := 0

end Sys2Proof.Machine
end

