-- ==== Sys2Proof/Machine/Flags.lean ====
section
/-! DEFINITION. The validity flags (R26), the numbering of response codes (R161), LASTERR and the STATUS view (R28), and how
a command ends: success, fault and rejection (R15, R160, R171, R172). -/

namespace Sys2Proof.Machine

/-- The outcome of a step of this machine. -/
abbrev StepResult := Host.Outcome State Fault Refusal

/-- The 4-bit number of a response code (R161). -/
def RespCode.bits : RespCode → BitVec 4
  | .ok => 0
  | .rangeError => 1
  | .illegalParam => 2
  | .illegalCommand => 3
  | .bufferOverflow => 4
  | .badFrameLength => 5
  | .notValid => 6

/-- `STATUS`: `{0b000, LASTERR[3:0], PV, SV, BLEN[6:0]}` (R28, R154). -/
def State.statusWord (s : State) : BitVec 16 :=
  0#3 ++ s.lasterr.bits ++ BitVec.ofBool s.pv ++ BitVec.ofBool s.sv ++ s.blen

/-- `SV <- 0 ; PV <- 0`: the frame changed (R26, R194). -/
def State.clearValid (s : State) : State := { s with sv := false, pv := false }

/-- Clear the frame: all of `FB` and `BLEN` to 0, and both flags (R94, R107, R172). -/
def State.clearFrame (s : State) : State := { s with fb := 0, blen := 0, sv := false, pv := false }

/-- End a command: the response goes out and its code into `LASTERR` (R28, R61). -/
def State.respond (s : State) (code : RespCode) (data : BitVec 16) : State :=
  { s with lasterr := code, response := some ⟨code, data⟩ }

/-- End a command with code 0 without recording it: a well-formed `RDST` only (R28, R154). -/
def State.respondUnrecorded (s : State) (data : BitVec 16) : State :=
  { s with response := some ⟨.ok, data⟩ }

/-- `respond(OK, d)` (R15). -/
def succeed (s : State) (data : BitVec 16) : StepResult := .next (s.respond .ok data)

/-- `raise` with the default effect: nothing changes but `LASTERR` (R160, R171), `data = 0` (R61). -/
def raise (code : RespCode) (s : State) : StepResult := .next (s.respond code 0)

/-- `reject`: the frame and both flags are cleared (R172). -/
def reject (code : RespCode) (s : State) : StepResult := .next (s.clearFrame.respond code 0)

/-- The model gives a meaning only to a well-formed configuration (R10; log 4). -/
def withConfig (s : State) (k : StepResult) : StepResult :=
  if s.cfg.wf then k else .refused .illFormedConfig

end Sys2Proof.Machine
end

