-- ==== Sys2Proof/Machine/Operands.lean ====
section
/-! DEFINITION. The operands of the commands: tags to enumerants (R69, R70), the typed parameters (R102), the swing flag
(R100), the temperature field (R101), the protocol codes (R71) and the value of a layout field (R76). -/

namespace Sys2Proof

/-- Mode tags; 5, 6, 7 are reserved (R69). -/
def Mode.ofTag (t : BitVec 3) : Option Mode :=
  match t.toNat with
  | 0 => some .auto
  | 1 => some .cool
  | 2 => some .dry
  | 3 => some .fan
  | 4 => some .heat
  | _ => none

/-- Fan tags; none reserved (R69). -/
def FanSpeed.ofTag (t : BitVec 2) : FanSpeed :=
  match t.toNat with
  | 0 => .auto
  | 1 => .low
  | 2 => .medium
  | _ => .high

/-- VerticalVane tags; 9 to 15 are reserved (R69). -/
def VVane.ofTag (t : BitVec 4) : Option VVane :=
  match t.toNat with
  | 0 => some .auto
  | 1 => some .vPos1
  | 2 => some .vPos2
  | 3 => some .vPos3
  | 4 => some .vPos4
  | 5 => some .swingAll
  | 6 => some .swingLow
  | 7 => some .swingCenter
  | 8 => some .swingHigh
  | _ => none

/-- HorizontalVane tags; none reserved (R69). -/
def HVane.ofTag (t : BitVec 3) : HVane :=
  match t.toNat with
  | 0 => .auto
  | 1 => .hPos1
  | 2 => .hPos2
  | 3 => .hPos3
  | 4 => .hPos4
  | 5 => .hPos5
  | 6 => .swingAll
  | _ => .swingSpread

/-- The configured protocol code of a mode (R71). -/
def ModeCodes.code (c : ModeCodes) : Mode → Nat
  | .auto => c.auto
  | .cool => c.cool
  | .dry => c.dry
  | .fan => c.fan
  | .heat => c.heat

/-- The configured protocol code of a fan speed (R71). -/
def FanCodes.code (c : FanCodes) : FanSpeed → Nat
  | .auto => c.auto
  | .low => c.low
  | .medium => c.medium
  | .high => c.high

/-- The configured protocol code of a vertical vane position (R71). -/
def VVaneCodes.code (c : VVaneCodes) : VVane → Nat
  | .auto => c.auto
  | .vPos1 => c.vPos1
  | .vPos2 => c.vPos2
  | .vPos3 => c.vPos3
  | .vPos4 => c.vPos4
  | .swingAll => c.swingAll
  | .swingLow => c.swingLow
  | .swingCenter => c.swingCenter
  | .swingHigh => c.swingHigh

/-- The configured protocol code of a horizontal vane position (R71). -/
def HVaneCodes.code (c : HVaneCodes) : HVane → Nat
  | .auto => c.auto
  | .hPos1 => c.hPos1
  | .hPos2 => c.hPos2
  | .hPos3 => c.hPos3
  | .hPos4 => c.hPos4
  | .hPos5 => c.hPos5
  | .swingAll => c.swingAll
  | .swingSpread => c.swingSpread

namespace Machine

/-- The decoded ControlParameters (R102). -/
structure Params where
  mode : Mode
  power : Bool
  fan : FanSpeed
  temp : Nat
  vv : VVane
  hv : HVane
  deriving DecidableEq, Repr

/-- `decodeParams(PW)`; none is `raise IllegalParam` (R102, R70). It does not look at the temperature. -/
def decodeParams (p : ParamWord) : Option Params :=
  match Mode.ofTag p.mode, VVane.ofTag p.vv with
  | some m, some v => some ⟨m, p.power, FanSpeed.ofTag p.fan, p.temp.toNat, v, HVane.ofTag p.hv⟩
  | _, _ => none

/-- `tempField(P)`; none is `raise RangeError` (R101). The check comes before the subtraction. -/
def tempField (k : Constants) (P : Params) : Option Nat :=
  if P.temp < k.tempMin ∨ P.temp > k.tempMax then none else some (P.temp - k.tempBias)

/-- `verticalSwing`, by enumerant (R100). -/
def verticalSwing : VVane → Bool
  | .swingAll | .swingLow | .swingCenter | .swingHigh => true
  | .auto | .vPos1 | .vPos2 | .vPos3 | .vPos4 => false

/-- `horizontalSwing`, by enumerant (R100). -/
def horizontalSwing : HVane → Bool
  | .swingAll | .swingSpread => true
  | .auto | .hPos1 | .hPos2 | .hPos3 | .hPos4 | .hPos5 => false

/-- `swing`: both axes must indicate swing (R100). -/
def swing (P : Params) : Bool := verticalSwing P.vv && horizontalSwing P.hv

/-- `fieldval(source, P)`, the table of R76. -/
def fieldVal (c : Config) (P : Params) : FieldSource → Nat
  | .mode => c.codeMode.code P.mode
  | .power => P.power.toNat
  | .fan => c.codeFan.code P.fan
  | .temp => P.temp - c.consts.tempBias
  | .vvane => c.codeVV.code P.vv
  | .hvane => c.codeHV.code P.hv
  | .swing => (swing P).toNat
  | .light => 1
  | .sleep => 0
  | .timer => 0
  | .turbo => 0
  | .health => 0
  | .xfan => 0
  | .scavenging => 0
  | .ifeel => 0
  | .const v => v

/-- The checks of `BUILD` and `ENCODE` in the order of R170: a reserved tag rejects with `IllegalParam`, then a temperature
out of range rejects with `RangeError`, else the command goes on with the decoded parameters (R107, R139). -/
def withParams (p : ParamWord) (s : State) (k : Params → StepResult) : StepResult :=
  match decodeParams p with
  | none => reject .illegalParam s
  | some P =>
    match tempField s.cfg.consts P with
    | none => reject .rangeError s
    | some _ => k P

end Machine

end Sys2Proof
end

