-- ==== Sys2Proof/Machine/Ops.lean ====
section
/-! DEFINITION. The named operations over the frame bits and the index spaces: the bit-field encoder (R90), bit strings and
their values (R12), the append (R92), the frame bytes (R21), and the exception every malformed command takes (R164). -/

namespace Sys2Proof.Machine

/-- `enc(v, w)`: bit `j` of `v` as character `j`, for `j = 0 .. w-1` (R90). The spec defines it for `1 <= w <= 8` and
`0 <= v <= 255` only and lets no result be assumed outside (U9, N6); there this definition goes on by the same formula
(DESIGN CHOICE, safe; log 17). No command reaches it there, and no statement speaks of it there. -/
def enc (v w : Nat) : BitString := (List.range w).map fun j => v.testBit j

/-- The value of a bit string, least significant bit first (R12). -/
def bitsVal : BitString → Nat
  | [] => 0
  | b :: bs => b.toNat + 2 * bitsVal bs

/-- `FB[k] <- b` (R15). -/
def setBit (fb : FrameBits) (k : Nat) (b : Bool) : FrameBits :=
  if b then fb ||| (1#72 <<< k) else fb &&& ~~~(1#72 <<< k)

/-- Write a bit string into the frame bits from position `at_` on (R92). -/
def writeBits (fb : FrameBits) (at_ : Nat) : BitString → FrameBits
  | [] => fb
  | b :: bs => writeBits (setBit fb at_ b) (at_ + 1) bs

/-- `append(w, v)`: the bits of `enc(v, w)` go to `FB[BLEN]` onward and `BLEN` grows by `w` (R92). -/
def State.append (s : State) (w v : Nat) : State :=
  { s with fb := writeBits s.fb s.blen.toNat (enc v w), blen := BitVec.ofNat 7 (s.blen.toNat + w) }

/-- `F[i]`, frame byte `i` (R21): `FB[8*i + 7 .. 8*i]`. -/
def frameByte (fb : FrameBits) (i : Nat) : Byte := fb.extractLsb' (8 * i) 8

/-- The byte-string of a byte value: character `j` is bit `j` (R13). -/
def byteString (v : Byte) : BitString := enc v.toNat 8

/-- The nine byte-strings of the frame (R21). -/
def frameByteStrings (fb : FrameBits) : List BitString := (List.range 9).map fun i => byteString (frameByte fb i)

/-- The 2-bit code of a symbol (R78). -/
def symbolBits : Symbol → BitVec 2
  | .zero => 0b00
  | .one => 0b01
  | .gap => 0b10

/-- `sym(b)`: the symbol of a bit (R130). -/
def bitSymbol (b : Bool) : Symbol := if b then .one else .zero

/-- `IllegalCommand`: what every malformed command word, and every command with an operand out of range, does (R164). -/
def illegalCommand (s : State) : StepResult := withConfig s (raise .illegalCommand s)

/-- Reset (R190, R191): the state of R31 whatever was in progress. The configuration is not touched, the events still to come
are the outside world's, and the contents of `S` and `PB` are free values (log 6). -/
def resetBlock (s : State) : State :=
  { State.reset with
    cfg := s.cfg
    pending := s.pending
    symbols := Vector.ofFn fun k => Config.unspecifiedSymbol s.resets k.val
    pulses := Vector.ofFn fun k => Config.unspecifiedPulse s.resets k.val
    resets := s.resets + 1 }

end Sys2Proof.Machine
end

