-- ==== Sys2Proof/Machine/Checksum.lean ====
section
/-! DEFINITION. The checksum engine: the formula (R120, R121), the placing of the result (R122) and `CSUM` (R123). -/

namespace Sys2Proof.Machine

/-- `lo(v)`, the low nibble (R14). -/
def lowNibble (v : Nat) : Nat := v % 16

/-- `hi(v)`, the high nibble of a byte value (R14). -/
def highNibble (v : Nat) : Nat := v / 16

/-- `checksum(v_0, ..., v_7)` (R121); byte 4 is passed and ignored (R120, R123). -/
def checksum (bias v0 v1 v2 v3 _v4 v5 v6 v7 : Nat) : Nat :=
  (lowNibble v0 + lowNibble v1 + lowNibble v2 + lowNibble v3
    + highNibble v5 + highNibble v6 + highNibble v7 + bias) % 16

/-- The checksum of the frame registers `F[0]` to `F[7]` (R123). -/
def frameChecksum (k : Constants) (fb : FrameBits) : Nat :=
  checksum k.csumBias (frameByte fb 0).toNat (frameByte fb 1).toNat (frameByte fb 2).toNat (frameByte fb 3).toNat
    (frameByte fb 4).toNat (frameByte fb 5).toNat (frameByte fb 6).toNat (frameByte fb 7).toNat

/-- `append(4, 0) ; append(4, c)`: byte 8 (R122). -/
def State.appendChecksum (s : State) : State := (s.append 4 0).append 4 (frameChecksum s.cfg.consts s.fb)

/-- `CSUM` (R123). -/
def execCsum (s : State) : StepResult :=
  withConfig s <|
    if s.blen.toNat ≠ 64 then raise .badFrameLength s
    else succeed s.appendChecksum.clearValid 0

end Sys2Proof.Machine
end

