-- ==== Sys2Proof/Machine/Builder.lean ====
section
/-! DEFINITION. The frame builder: the pure functions `frame07` (R105) and `encode` (R106), and `BUILD` (R107). -/

namespace Sys2Proof.Machine

/-- One byte-string of the frame: its fields encoded and concatenated in order (R105). -/
def packByte (c : Config) (P : Params) (b : ByteLayout) : BitString :=
  (b.map fun e => enc (fieldVal c P e.source) e.width).flatten

/-- `frame07(P)`: bytes 0 to 7 as byte-strings (R105). -/
def frame07 (c : Config) (P : Params) : List BitString := c.layout.map (packByte c P)

/-- The value of byte-string `i` of a list of byte-strings (R12). -/
def byteVal (bs : List BitString) (i : Nat) : Nat := bitsVal (bs.getD i [])

/-- The checksum of byte-strings 0 to 7 (R106, R121). -/
def stringsChecksum (k : Constants) (bs : List BitString) : Nat :=
  checksum k.csumBias (byteVal bs 0) (byteVal bs 1) (byteVal bs 2) (byteVal bs 3)
    (byteVal bs 4) (byteVal bs 5) (byteVal bs 6) (byteVal bs 7)

/-- The checksum byte: `"0000" ++ enc(c, 4)` (R77). -/
def checksumByteString (c : Nat) : BitString := enc 0 4 ++ enc c 4

/-- `encode(P)`: the nine byte-strings; none is `raise RangeError` (R106). -/
def encodeFrame (c : Config) (P : Params) : Option (List BitString) :=
  match tempField c.consts P with
  | none => none
  | some _ =>
    let bs := frame07 c P
    some (bs ++ [checksumByteString (stringsChecksum c.consts bs)])

/-- Append the fields of one byte in order (R107). -/
def State.appendFields (P : Params) (s : State) (b : ByteLayout) : State :=
  b.foldl (fun s e => s.append e.width (fieldVal s.cfg P e.source)) s

/-- The body of `BUILD` after its checks (R107): clear, append the fields of bytes 0 to 7, append byte 8. -/
def State.buildFrame (P : Params) (s : State) : State :=
  (s.cfg.layout.foldl (State.appendFields P) s.clearFrame).appendChecksum

/-- `BUILD params` (R107). -/
def execBuild (p : ParamWord) (s : State) : StepResult :=
  withConfig s <| withParams p s fun P => succeed (s.buildFrame P) 0

end Sys2Proof.Machine
end

