-- ==== Sys2Proof/Machine/Packing.lean ====
section
/-! DEFINITION. The field packing commands: `PUT` (R93) and `CLRB` (R94). -/

namespace Sys2Proof.Machine

/-- `PUT w, v` (R93). -/
def execPut (w : BitVec 4) (v : Byte) (s : State) : StepResult :=
  withConfig s <|
    if w.toNat = 0 ∨ w.toNat > 8 then raise .illegalCommand s
    else if s.blen.toNat + w.toNat > 72 then raise .bufferOverflow s
    else succeed (s.append w.toNat v.toNat).clearValid 0

/-- `CLRB` (R94). -/
def execClrb (s : State) : StepResult := withConfig s <| succeed s.clearFrame 0

end Sys2Proof.Machine
end

