-- ==== Sys2Proof/Machine/Readout.lean ====
section
/-! DEFINITION. Read-out and housekeeping: `NOP` (R150), `RDF` (R151), `RDS` (R152), `RDP` (R153), `RDST` (R154). -/

namespace Sys2Proof.Machine

/-- `NOP` (R150). -/
def execNop (s : State) : StepResult := withConfig s <| succeed s 0

/-- `RDF i` (R151). -/
def execRdf (i : Byte) (s : State) : StepResult :=
  withConfig s <|
    if i.toNat > 8 then raise .illegalCommand s
    else if 8 * i.toNat + 8 > s.blen.toNat then raise .notValid s
    else succeed s ((frameByte s.fb i.toNat).setWidth 16)

/-- `RDS i` (R152). -/
def execRds (i : Byte) (s : State) : StepResult :=
  withConfig s <|
    if h : i.toNat ≤ 67 then
      if s.sv then succeed s ((symbolBits s.symbols[i.toNat]).setWidth 16) else raise .notValid s
    else raise .illegalCommand s

/-- `RDP i` (R153). -/
def execRdp (i : Byte) (s : State) : StepResult :=
  withConfig s <|
    if h : i.toNat ≤ 139 then
      if s.pv then succeed s s.pulses[i.toNat] else raise .notValid s
    else raise .illegalCommand s

/-- `RDST` (R154): the response carries `STATUS` and nothing is written, not even `LASTERR`. -/
def execRdst (s : State) : StepResult := withConfig s <| .next (s.respondUnrecorded s.statusWord)

end Sys2Proof.Machine
end

