-- ==== Sys2Proof/Machine/SymbolPulse.lean ====
section
/-! DEFINITION. The symbol string and the pulse mapper: `symbols` (R130), `gap` (R132), `pulses` (R133, R134), and the
commands `SYM` (R137), `PULSE` (R138), `ENCODE` (R139). -/

namespace Sys2Proof.Machine

/-- `symbols(F[0..8])` by index: bits 0..34 of the frame, the gap at index 35, then bits 40..71 (R130). -/
def symbolsOf (fb : FrameBits) : Vector Symbol 68 :=
  Vector.ofFn fun k =>
    if k.val < 35 then bitSymbol (fb.getLsbD k.val)
    else if k.val = 35 then .gap
    else bitSymbol (fb.getLsbD (k.val + 4))

/-- `symbols(b_0, ..., b_8)` by concatenation of byte-strings (R130). -/
def symbolString (bs : List BitString) : List Symbol :=
  let b := fun i => (bs.getD i []).map bitSymbol
  b 0 ++ b 1 ++ b 2 ++ b 3 ++ (b 4).take 3 ++ [.gap] ++ b 5 ++ b 6 ++ b 7 ++ b 8

/-- `gap(symbol)`, the gap table (R132). -/
def gap (k : Constants) : Symbol → Nat
  | .zero => k.zeroSpace
  | .one => k.oneSpace
  | .gap => k.gapSpace

/-- A number of microseconds as a pulse word (R79); a well-formed configuration's durations fit (D28). -/
def micros (n : Nat) : Micros := BitVec.ofNat 16 n

/-- `pulses(S)` by index (R134, R138): the header pair, one pair per symbol, the trailer pair. -/
def pulsesOf (k : Constants) (s : Vector Symbol 68) : Vector Micros 140 :=
  Vector.ofFn fun i =>
    if i.val = 0 then micros k.hdrMark
    else if i.val = 1 then micros k.hdrSpace
    else if h : i.val < 138 then
      if i.val % 2 = 0 then micros k.bitMark else micros (gap k s[(i.val - 2) / 2])
    else if i.val = 138 then micros k.trailMark
    else micros k.trailSpace

/-- `pulses(s)` of a symbol string of any length, by concatenation (R133). -/
def pulseSequence (k : Constants) (s : List Symbol) : List Nat :=
  [k.hdrMark, k.hdrSpace] ++ (s.map fun c => [k.bitMark, gap k c]).flatten ++ [k.trailMark, k.trailSpace]

/-- The body of `SYM` after its checks (R137). -/
def State.makeSymbols (s : State) : State := { s with symbols := symbolsOf s.fb, sv := true, pv := false }

/-- The body of `PULSE` after its checks (R138). -/
def State.makePulses (s : State) : State := { s with pulses := pulsesOf s.cfg.consts s.symbols, pv := true }

/-- `SYM` (R137). -/
def execSym (s : State) : StepResult :=
  withConfig s <| if s.blen.toNat ≠ 72 then raise .badFrameLength s else succeed s.makeSymbols 0

/-- `PULSE` (R138). -/
def execPulse (s : State) : StepResult :=
  withConfig s <| if s.sv then succeed s.makePulses 0 else raise .notValid s

/-- `ENCODE params` (R139): the bodies of `BUILD`, `SYM` and `PULSE` in one indivisible command. -/
def execEncode (p : ParamWord) (s : State) : StepResult :=
  withConfig s <| withParams p s fun P => succeed (s.buildFrame P).makeSymbols.makePulses 0

end Sys2Proof.Machine
end

