-- ==== Sys2Proof/Machine/Dispatch.lean ====
section
/-! DEFINITION. One arm per command of the opcode map (R62). -/

namespace Sys2Proof.Machine

def exec (i : Instr) (s : State) : Host.Outcome State Fault Refusal :=
  match i with
  | .nop => Sys2Proof.Machine.execNop s
  | .clrb => Sys2Proof.Machine.execClrb s
  | .put w v => Sys2Proof.Machine.execPut w v s
  | .csum => Sys2Proof.Machine.execCsum s
  | .build p => Sys2Proof.Machine.execBuild p s
  | .sym => Sys2Proof.Machine.execSym s
  | .pulse => Sys2Proof.Machine.execPulse s
  | .encode p => Sys2Proof.Machine.execEncode p s
  | .rdf j => Sys2Proof.Machine.execRdf j s
  | .rds j => Sys2Proof.Machine.execRds j s
  | .rdp j => Sys2Proof.Machine.execRdp j s
  | .rdst => Sys2Proof.Machine.execRdst s

end Sys2Proof.Machine
end

