-- ==== Sys2Proof/Decode.lean ====
section
/-! DEFINITION. The decoder of a 32-bit command word, total, rejecting by name (R60 to R68), the encoder written from the
same patterns, and the match and mask table of R63. -/

namespace Sys2Proof

/-- Why a word is malformed, in the order of R170 point 1. -/
inductive Malformed where
  /-- Opcodes 0xC to 0xF (R65). -/
  | reservedOpcode
  /-- A must-be-zero bit is set (R64). -/
  | reservedBits
  /-- A width or an index out of its range (R66). -/
  | operandRange
  deriving DecidableEq, Repr

/-- What the decoder reads from a word. -/
inductive Decoded where
  | command (i : Instr)
  | malformed (why : Malformed)
  deriving DecidableEq, Repr

/-- Format `Z` of R60: `a` and `imm` are zero. -/
def decodeNoOperand (w : Word) (i : Instr) : Decoded :=
  if w.extractLsb' 0 28 = 0 then .command i else .malformed .reservedBits

/-- Format `WV` of R60, the operands of `PUT` (R93). -/
def decodePut (w : Word) : Decoded :=
  if w.extractLsb' 8 16 ≠ 0 then .malformed .reservedBits
  else if (Instr.put (w.extractLsb' 24 4) (w.extractLsb' 0 8)).wf
    then .command (.put (w.extractLsb' 24 4) (w.extractLsb' 0 8))
  else .malformed .operandRange

/-- The fields of the parameter word in `imm[20:0]` (R68). -/
def paramWordOf (w : Word) : ParamWord where
  temp := w.extractLsb' 0 8
  mode := w.extractLsb' 8 3
  power := w.getLsbD 11
  fan := w.extractLsb' 12 2
  vv := w.extractLsb' 14 4
  hv := w.extractLsb' 18 3

/-- Format `PW` of R60: `a` and `PW[23:21]`, that is `cmd[27:21]`, are zero (R107, R139). -/
def decodeParamWord (w : Word) (mk : ParamWord → Instr) : Decoded :=
  if w.extractLsb' 21 7 ≠ 0 then .malformed .reservedBits else .command (mk (paramWordOf w))

/-- Format `IDX` of R60: `cmd[27:8]` is zero and the index lies in its space (R66). -/
def decodeIndex (w : Word) (mk : Byte → Instr) : Decoded :=
  if w.extractLsb' 8 20 ≠ 0 then .malformed .reservedBits
  else if (mk (w.extractLsb' 0 8)).wf then .command (mk (w.extractLsb' 0 8))
  else .malformed .operandRange

/-- The decoder: the opcode map R62 with the conditions of R63 to R66. -/
def decode (w : Word) : Decoded :=
  match (w.extractLsb' 28 4).toNat with
  | 0x0 => decodeNoOperand w .nop
  | 0x1 => decodeNoOperand w .clrb
  | 0x2 => decodePut w
  | 0x3 => decodeNoOperand w .csum
  | 0x4 => decodeParamWord w .build
  | 0x5 => decodeNoOperand w .sym
  | 0x6 => decodeNoOperand w .pulse
  | 0x7 => decodeParamWord w .encode
  | 0x8 => decodeIndex w .rdf
  | 0x9 => decodeIndex w .rds
  | 0xA => decodeIndex w .rdp
  | 0xB => decodeNoOperand w .rdst
  | _ => .malformed .reservedOpcode

/-! ## The encoder -/

/-- `PW[20:0]` (R68), most significant field first. -/
def ParamWord.bits (p : ParamWord) : BitVec 21 :=
  p.hv ++ p.vv ++ p.fan ++ BitVec.ofBool p.power ++ p.mode ++ p.temp

/-- The word of a command: the patterns of R62, most significant bit first. -/
def encode : Instr → Word
  | .nop => 0x0#4 ++ 0#28
  | .clrb => 0x1#4 ++ 0#28
  | .put w v => 0x2#4 ++ w ++ 0#16 ++ v
  | .csum => 0x3#4 ++ 0#28
  | .build p => 0x4#4 ++ 0#7 ++ p.bits
  | .sym => 0x5#4 ++ 0#28
  | .pulse => 0x6#4 ++ 0#28
  | .encode p => 0x7#4 ++ 0#7 ++ p.bits
  | .rdf i => 0x8#4 ++ 0#20 ++ i
  | .rds i => 0x9#4 ++ 0#20 ++ i
  | .rdp i => 0xA#4 ++ 0#20 ++ i
  | .rdst => 0xB#4 ++ 0#28

/-! ## The table of R63 -/

/-- One row of the table of R63. -/
structure TableRow where
  mnemonic : String
  matchBits : Word
  maskBits : Word
  deriving DecidableEq, Repr

/-- The `match` and `mask` of a command's row (R63). -/
def Instr.row : Instr → TableRow
  | .nop => ⟨"NOP", 0x00000000, 0xFFFFFFFF⟩
  | .clrb => ⟨"CLRB", 0x10000000, 0xFFFFFFFF⟩
  | .put _ _ => ⟨"PUT", 0x20000000, 0xF0FFFF00⟩
  | .csum => ⟨"CSUM", 0x30000000, 0xFFFFFFFF⟩
  | .build _ => ⟨"BUILD", 0x40000000, 0xFFE00000⟩
  | .sym => ⟨"SYM", 0x50000000, 0xFFFFFFFF⟩
  | .pulse => ⟨"PULSE", 0x60000000, 0xFFFFFFFF⟩
  | .encode _ => ⟨"ENCODE", 0x70000000, 0xFFE00000⟩
  | .rdf _ => ⟨"RDF", 0x80000000, 0xFFFFFF00⟩
  | .rds _ => ⟨"RDS", 0x90000000, 0xFFFFFF00⟩
  | .rdp _ => ⟨"RDP", 0xA0000000, 0xFFFFFF00⟩
  | .rdst => ⟨"RDST", 0xB0000000, 0xFFFFFFFF⟩

/-- The row selects the word: `(c AND mask) = match` (R63). -/
def TableRow.selects (r : TableRow) (c : Word) : Prop := c &&& r.maskBits = r.matchBits

/-- The fixed name the host reads: the instruction the decoder reads from a table row's word. The one operand word of this
hardware is the 32-bit command word itself, and it is carried whole (R60, R67), so nothing is laid out in bytes. -/
def decodeTableWord (nbits w : Nat) : Option Instr :=
  match decode (BitVec.ofNat 32 (w % 2 ^ nbits)) with
  | .command i => some i
  | .malformed _ => none

end Sys2Proof
end

