-- ==== Sys2Proof/Machine/Fetch.lean ====
section
/-! DEFINITION. How the next event reaches the block: the command port and the reset pin (R50, R190, R199), and what each event
that runs no command does. -/

namespace Sys2Proof.Machine

/-- What the next event asks of the machine: run a command on a state, or an outcome already settled. -/
inductive Fetched where
  | run (i : Instr) (s : State)
  | done (o : StepResult)

/-- A command word is sampled once (R53) and decoded; a malformed one takes `IllegalCommand` (R164). -/
def fetchWord (w : Word) (s : State) : Fetched :=
  match decode w with
  | .command i => .run i s
  | .malformed _ => .done (illegalCommand s)

/-- Take the oldest pending event. A command is run to its end in this step (R50). A reset, also one that cuts a command off,
gives the reset state (R190). With no event the block holds its state and does nothing (R181; log 9). -/
def fetch (s : State) : Fetched :=
  match s.pending with
  | [] => .done (.next s)
  | .command w :: rest => fetchWord w { s with pending := rest }
  | .reset :: rest => .done (.next (resetBlock { s with pending := rest }))
  | .commandCutOff _ :: rest => .done (.next (resetBlock { s with pending := rest }))

/-- The host issues a command word before everything else that is pending (log 10). -/
def presentWord (s : State) (nbits w : Nat) : State :=
  { s with pending := .command (BitVec.ofNat 32 (w % 2 ^ nbits)) :: s.pending }

end Sys2Proof.Machine
end

