-- ==== Sys2Proof/Machine/Step.lean ====
section
/-! DEFINITION. One step: the next event, run as one indivisible step (R50). -/

namespace Sys2Proof.Machine

/-- One step of one instance. The whole machine refuses an ill-formed configuration (R10; log 4). -/
def step (s : State) : Host.Outcome State Fault Refusal :=
  withConfig s <|
    match fetch s with
    | .run i t => exec i t
    | .done o => o

/-- The state in which the very next step runs the command whose bits are `w`: the host has issued it (log 10). -/
def State.withFetchWord (s : State) (nbits w : Nat) : State := presentWord s nbits w

end Sys2Proof.Machine
end

