-- ==== Sys2Proof/Machine/Assembler.lean ====
section
/-! DEFINITION. The host's assembler notation (R80) and its pseudo-instructions (R81). The block never sees either. -/

namespace Sys2Proof

/-- The tag of a mode (R69). -/
def Mode.tag : Mode → BitVec 3
  | .auto => 0
  | .cool => 1
  | .dry => 2
  | .fan => 3
  | .heat => 4

/-- The tag of a fan speed (R69). -/
def FanSpeed.tag : FanSpeed → BitVec 2
  | .auto => 0
  | .low => 1
  | .medium => 2
  | .high => 3

/-- The tag of a vertical vane position (R69). -/
def VVane.tag : VVane → BitVec 4
  | .auto => 0
  | .vPos1 => 1
  | .vPos2 => 2
  | .vPos3 => 3
  | .vPos4 => 4
  | .swingAll => 5
  | .swingLow => 6
  | .swingCenter => 7
  | .swingHigh => 8

/-- The tag of a horizontal vane position (R69). -/
def HVane.tag : HVane → BitVec 3
  | .auto => 0
  | .hPos1 => 1
  | .hPos2 => 2
  | .hPos3 => 3
  | .hPos4 => 4
  | .hPos5 => 5
  | .swingAll => 6
  | .swingSpread => 7

namespace Machine

/-- The parameter operands written by keyword: `mode=<Mode>, power=<0|1>, fan=<Fan>, temp=<0..255>, vv=<VerticalVane>,
hv=<HorizontalVane>` assemble to the parameter word (R68, R80). -/
def assembleParams (mode : Mode) (power : Bool) (fan : FanSpeed) (temp : Byte) (vv : VVane) (hv : HVane) : ParamWord :=
  ⟨temp, mode.tag, power, fan.tag, vv.tag, hv.tag⟩

/-- The pseudo-instructions of R81. -/
inductive Pseudo where
  | putb (v : Byte)
  | topulses
  | ldframe8 (b0 b1 b2 b3 b4 b5 b6 b7 : Byte)
  deriving DecidableEq, Repr

/-- The expansion of a pseudo-instruction to real commands (R81). -/
def Pseudo.expand : Pseudo → List Instr
  | .putb v => [.put 8 v]
  | .topulses => [.sym, .pulse]
  | .ldframe8 b0 b1 b2 b3 b4 b5 b6 b7 =>
    [.clrb, .put 8 b0, .put 8 b1, .put 8 b2, .put 8 b3, .put 8 b4, .put 8 b5, .put 8 b6, .put 8 b7]

/-- Enumerant names of R69; a reserved tag is written as its number (R80). -/
def modeText (t : BitVec 3) : String :=
  match Mode.ofTag t with
  | some .auto => "AUTO"
  | some .cool => "COOL"
  | some .dry => "DRY"
  | some .fan => "FAN"
  | some .heat => "HEAT"
  | none => Nat.repr t.toNat

/-- Enumerant names of R69. -/
def fanText (t : BitVec 2) : String :=
  match FanSpeed.ofTag t with
  | .auto => "AUTO"
  | .low => "LOW"
  | .medium => "MEDIUM"
  | .high => "HIGH"

/-- Enumerant names of R69; a reserved tag is written as its number (R80). -/
def vvText (t : BitVec 4) : String :=
  match VVane.ofTag t with
  | some .auto => "AUTO"
  | some .vPos1 => "V_POS1"
  | some .vPos2 => "V_POS2"
  | some .vPos3 => "V_POS3"
  | some .vPos4 => "V_POS4"
  | some .swingAll => "SWING_ALL"
  | some .swingLow => "SWING_LOW"
  | some .swingCenter => "SWING_CENTER"
  | some .swingHigh => "SWING_HIGH"
  | none => Nat.repr t.toNat

/-- Enumerant names of R69. -/
def hvText (t : BitVec 3) : String :=
  match HVane.ofTag t with
  | .auto => "AUTO"
  | .hPos1 => "H_POS1"
  | .hPos2 => "H_POS2"
  | .hPos3 => "H_POS3"
  | .hPos4 => "H_POS4"
  | .hPos5 => "H_POS5"
  | .swingAll => "SWING_ALL"
  | .swingSpread => "SWING_SPREAD"

/-- The parameter operands in the source's order (R80). -/
def paramText (p : ParamWord) : String :=
  "mode=" ++ modeText p.mode ++ ", power=" ++ (if p.power then "1" else "0") ++ ", fan=" ++ fanText p.fan
    ++ ", temp=" ++ Nat.repr p.temp.toNat ++ ", vv=" ++ vvText p.vv ++ ", hv=" ++ hvText p.hv

/-- A command as assembler text: the mnemonic, then the operands separated by commas, numbers in decimal (R80; log 15). -/
def asmText : Instr → String
  | .nop => "NOP"
  | .clrb => "CLRB"
  | .put w v => "PUT " ++ Nat.repr w.toNat ++ ", " ++ Nat.repr v.toNat
  | .csum => "CSUM"
  | .build p => "BUILD " ++ paramText p
  | .sym => "SYM"
  | .pulse => "PULSE"
  | .encode p => "ENCODE " ++ paramText p
  | .rdf i => "RDF " ++ Nat.repr i.toNat
  | .rds i => "RDS " ++ Nat.repr i.toNat
  | .rdp i => "RDP " ++ Nat.repr i.toNat
  | .rdst => "RDST"

/-- The diagnostic text form of a symbol string: the characters themselves (R78). -/
def symbolText (s : List Symbol) : String :=
  String.ofList (s.map fun c => match c with | .zero => '0' | .one => '1' | .gap => ' ')

end Machine

end Sys2Proof
end

