-- ==== Sys2Proof/Safety.lean ====
section
/-! DEFINITION. What a good state is, what the host can observe of one, and the runs claims speak of. -/

namespace Sys2Proof.Machine

/-- The invariant of the block: the legal values of `BLEN` (R22), zero bits above it (R23), the two validity invariants
(I-S) and (I-P) of R26, and no data with a fault (R61). -/
structure State.Inv (s : State) : Prop where
  /-- R22: "Its legal values are 0 to 72". -/
  blen_le : s.blen.toNat ≤ 72
  /-- R23: `FB[k] = 0` for every `k >= BLEN`. -/
  tail_zero : ∀ k, s.blen.toNat ≤ k → s.fb.getLsbD k = false
  /-- R26 (I-S). -/
  symbols_valid : s.sv = true → s.blen.toNat = 72 ∧ s.symbols = symbolsOf s.fb
  /-- R26 (I-P). -/
  pulses_valid : s.pv = true → s.sv = true ∧ s.pulses = pulsesOf s.cfg.consts s.symbols
  /-- R61: a fault has `data = 0`. -/
  fault_data : ∀ r, s.response = some r → r.code ≠ .ok → r.data = 0

/-- Two states the host cannot tell apart: equal but for the contents of `S` while `SV = 0` and of `PB` while `PV = 0`
("cannot be observed by any command", R24, R25) and the model's free-value counter. -/
structure SameToHost (s t : State) : Prop where
  cfg : s.cfg = t.cfg
  fb : s.fb = t.fb
  blen : s.blen = t.blen
  sv : s.sv = t.sv
  pv : s.pv = t.pv
  lasterr : s.lasterr = t.lasterr
  response : s.response = t.response
  pending : s.pending = t.pending
  symbols : s.sv = true → s.symbols = t.symbols
  pulses : s.pv = true → s.pulses = t.pulses

/-- The frame register values `F[0]` to `F[8]`. -/
def State.frame (s : State) : List Byte := (List.range 9).map (frameByte s.fb)

/-- Issue commands one after another on a state, stopping at the first refusal; every command's fault is an ordinary next state
(R160), so the commands after it are still issued (R81). -/
def issueAll : List Instr → State → StepResult
  | [], s => .next s
  | i :: rest, s =>
    match exec i s with
    | .next t => issueAll rest t
    | .fault r => .fault r
    | .refused r => .refused r

/-- The state after a fault with the default effect: only `LASTERR` and the response change (R171). -/
def faultOnly (c : RespCode) (s : State) : State := { s with lasterr := c, response := some ⟨c, 0⟩ }

/-- The state after a rejection: the frame is cleared, nothing else but `LASTERR` and the response changes (R172). -/
def rejected (c : RespCode) (s : State) : State :=
  { s with fb := 0, blen := 0, sv := false, pv := false, lasterr := c, response := some ⟨c, 0⟩ }

/-- The state after a successful command that leaves everything but `LASTERR` and the response alone (R33). -/
def answered (d : BitVec 16) (s : State) : State := { s with lasterr := .ok, response := some ⟨.ok, d⟩ }

/-- How the words of one command reach it: a pending word of opcode `op` with a must-be-zero bit set is malformed and changes
nothing but `LASTERR` (R64, R164); any other is the command `i` of that word's operand fields, run at the state with the word
taken (R50, R60, R62). -/
def WordsOf (op : BitVec 4) (mustBeZero : Word) (i : Word → Instr) : Prop :=
  ∀ (s : State) (w : Word) (rest : List HostEvent), s.cfg.wf = true → s.pending = .command w :: rest →
    w.extractLsb' 28 4 = op →
    (w &&& mustBeZero ≠ 0 → step s = .next (faultOnly .illegalCommand { s with pending := rest }))
    ∧ (w &&& mustBeZero = 0 → step s = exec (i w) { s with pending := rest })

/-- The fields of `cmd[20:0]` as R68 places them. -/
def fieldsOfPW (w : Word) : ParamWord :=
  ⟨w.extractLsb' 0 8, w.extractLsb' 8 3, w.getLsbD 11, w.extractLsb' 12 2, w.extractLsb' 14 4, w.extractLsb' 18 3⟩

/-- The tags of a parameter word name enumerants (R69, R70). -/
abbrev LegalTags (p : ParamWord) : Prop := p.mode.toNat < 5 ∧ p.vv.toNat < 9

/-- The temperature of a parameter word is in range (R101). -/
abbrev LegalTemp (k : Constants) (p : ParamWord) : Prop := k.tempMin ≤ p.temp.toNat ∧ p.temp.toNat ≤ k.tempMax

/-- The read commands (R47). -/
def isRead : Instr → Bool
  | .rdf _ | .rds _ | .rdp _ | .rdst => true
  | _ => false

/-- The commands that need a frame, a symbol string or pulses (R172). -/
def needsResult : Instr → Bool
  | .rdf _ | .rds _ | .rdp _ | .pulse | .sym | .csum => true
  | _ => false

/-- The total of all durations of the pulse buffer, in microseconds (R140). -/
def totalDuration (p : Vector Micros 140) : Nat := (p.toList.map (·.toNat)).sum

/-- How many of the symbols are '1' (R140). -/
def onesOf (s : Vector Symbol 68) : Nat := s.toList.count .one

end Sys2Proof.Machine
end

