-- ==== Sys2Proof/Certificates/Slice0/Obligations.lean ====
section
/-! DEFINITION. The statements for the provers. Each docstring names the rule of the spec it formalises; `s.cfg.wf` (R10) is the
only premise on the configuration unless a docstring says otherwise. -/

open Sys2Proof Sys2Proof.Machine

/-! ## Encoding and decoding -/

/-- Every well-formed command is read back from its word, with every operand at every value (R62, R63, R68). -/
def Obligations.DecodeOfEncodeIsTheCommand : Prop :=
  ∀ i : Instr, i.wf = true → decode (encode i) = .command i

/-- Every word the decoder accepts is the word of that one well-formed command: no bit is dropped (R62, R64, R66). -/
def Obligations.EncodeOfDecodeIsTheWord : Prop :=
  ∀ (w : Word) (i : Instr), decode w = .command i → encode i = w ∧ i.wf = true

/-- R63: a word selects a command exactly when `(c AND mask) = match` and the operand range condition holds, for each of the
twelve rows; no word is of two rows; a word that no row selects is malformed. -/
def Obligations.MatchMaskSelectsTheCommand : Prop :=
  ∀ c : Word,
    (decode c = .command .nop ↔ c &&& 0xFFFFFFFF = 0x00000000)
    ∧ (decode c = .command .clrb ↔ c &&& 0xFFFFFFFF = 0x10000000)
    ∧ ((∃ w v, decode c = .command (.put w v)) ↔
        c &&& 0xF0FFFF00 = 0x20000000 ∧ 1 ≤ (c.extractLsb' 24 4).toNat ∧ (c.extractLsb' 24 4).toNat ≤ 8)
    ∧ (decode c = .command .csum ↔ c &&& 0xFFFFFFFF = 0x30000000)
    ∧ ((∃ p, decode c = .command (.build p)) ↔ c &&& 0xFFE00000 = 0x40000000)
    ∧ (decode c = .command .sym ↔ c &&& 0xFFFFFFFF = 0x50000000)
    ∧ (decode c = .command .pulse ↔ c &&& 0xFFFFFFFF = 0x60000000)
    ∧ ((∃ p, decode c = .command (.encode p)) ↔ c &&& 0xFFE00000 = 0x70000000)
    ∧ ((∃ i, decode c = .command (.rdf i)) ↔ c &&& 0xFFFFFF00 = 0x80000000 ∧ (c.extractLsb' 0 8).toNat ≤ 8)
    ∧ ((∃ i, decode c = .command (.rds i)) ↔ c &&& 0xFFFFFF00 = 0x90000000 ∧ (c.extractLsb' 0 8).toNat ≤ 67)
    ∧ ((∃ i, decode c = .command (.rdp i)) ↔ c &&& 0xFFFFFF00 = 0xA0000000 ∧ (c.extractLsb' 0 8).toNat ≤ 139)
    ∧ (decode c = .command .rdst ↔ c &&& 0xFFFFFFFF = 0xB0000000)

/-- R60, R68: the operands of a decoded command are the named bit fields of its word. -/
def Obligations.OperandsAreTheWordsFields : Prop :=
  ∀ c : Word,
    (∀ w v, decode c = .command (.put w v) → w = c.extractLsb' 24 4 ∧ v = c.extractLsb' 0 8)
    ∧ (∀ p, decode c = .command (.build p) ∨ decode c = .command (.encode p) →
        p.temp = c.extractLsb' 0 8 ∧ p.mode = c.extractLsb' 8 3 ∧ p.power = c.getLsbD 11 ∧ p.fan = c.extractLsb' 12 2
          ∧ p.vv = c.extractLsb' 14 4 ∧ p.hv = c.extractLsb' 18 3 ∧ c.extractLsb' 21 3 = 0)
    ∧ (∀ i, decode c = .command (.rdf i) ∨ decode c = .command (.rds i) ∨ decode c = .command (.rdp i) →
        i = c.extractLsb' 0 8)

/-- Words written out bit by bit from R62 and the programs of 95_test_vectors.md decode to the commands they stand for. -/
def Obligations.SpecWordsDecode : Prop :=
  decode 0x00000000 = .command .nop
  ∧ decode 0x10000000 = .command .clrb
  ∧ decode 0x23000001 = .command (.put 3 1)
  ∧ decode 0x4000081E = .command (.build ⟨30, 0, true, 0, 0, 0⟩)
  ∧ decode 0x70197910 = .command (.encode ⟨16, 1, true, 3, 5, 6⟩)
  ∧ decode 0x80000008 = .command (.rdf 8)
  ∧ decode 0xA000008B = .command (.rdp 139)
  ∧ decode 0xC0000000 = .malformed .reservedOpcode
  ∧ decode 0x00000001 = .malformed .reservedBits
  ∧ decode 0x29000000 = .malformed .operandRange

/-- R102, R69: the typed parameters of a word are its fields, none exactly when a tag is reserved, and they assemble back to
the word. -/
def Obligations.DecodedParametersNameTheTags : Prop :=
  ∀ p : ParamWord,
    (decodeParams p = none ↔ 5 ≤ p.mode.toNat ∨ 9 ≤ p.vv.toNat)
    ∧ ∀ P, decodeParams p = some P →
        P.temp = p.temp.toNat ∧ P.power = p.power
          ∧ assembleParams P.mode P.power P.fan p.temp P.vv P.hv = p

/-! ## The step -/

/-- A step takes the oldest pending command; when its word decodes to `i`, the step is `exec i` at the state with that word
taken (R50). -/
def Obligations.StepRunsTheDecodedCommand : Prop :=
  ∀ (s : State) (w : Word) (rest : List HostEvent) (i : Instr), s.cfg.wf = true →
    s.pending = .command w :: rest → decode w = .command i → step s = exec i { s with pending := rest }

/-- R164: a command word that no row selects responds `IllegalCommand`; nothing else changes but `LASTERR`. -/
def Obligations.MalformedWordIsIllegalCommand : Prop :=
  ∀ (s : State) (w : Word) (rest : List HostEvent), s.cfg.wf = true → s.pending = .command w :: rest →
    (∀ i, decode w ≠ .command i) → step s = .next (faultOnly .illegalCommand { s with pending := rest })

/-- R65: opcodes 0xC to 0xF fault with `IllegalCommand` whatever the other bits. -/
def Obligations.ReservedOpcodeIsIllegalCommand : Prop :=
  ∀ (s : State) (w : Word) (rest : List HostEvent), s.cfg.wf = true → s.pending = .command w :: rest →
    0xC ≤ (w.extractLsb' 28 4).toNat → step s = .next (faultOnly .illegalCommand { s with pending := rest })

/-- R190: a reset, between commands or cutting one off, gives the reset state whatever was in progress, with no response; the
configuration is not touched (R191), and the contents of `S` and `PB` are not claimed (R31). -/
def Obligations.ResetEventGivesTheResetState : Prop :=
  ∀ (s : State) (e : HostEvent) (rest : List HostEvent), s.cfg.wf = true → s.pending = e :: rest →
    (e = .reset ∨ ∃ w, e = .commandCutOff w) →
    ∃ t, step s = .next t ∧ SameToHost t { State.reset with cfg := s.cfg, pending := rest }

/-- Between commands the block holds its state and does nothing (R181; log 9 reads this into a step with no event). -/
def Obligations.IdleStepHoldsTheState : Prop :=
  ∀ s : State, s.cfg.wf = true → s.pending = [] → step s = .next s

/-- R198, R160: every command word, well-formed or not, completes and is answered, and the next event is left in place. -/
def Obligations.EveryCommandWordIsAnswered : Prop :=
  ∀ (s : State) (w : Word) (rest : List HostEvent), s.cfg.wf = true → s.pending = .command w :: rest →
    ∃ t r, step s = .next t ∧ t.response = some r ∧ t.pending = rest

/-- What a well-formed configuration is (R10 (a) to (e), D28, and the model's own bound on TEMP_BIAS, log 3), and that the model
gives an ill-formed one no meaning (R10). -/
def Obligations.IllFormedConfigurationIsRefused : Prop :=
  (∀ c : Config, c.wf = true ↔
    c.layout.length = 8
    ∧ (∀ b ∈ c.layout, (∀ e ∈ b, 1 ≤ e.width ∧ e.width ≤ 8) ∧ (b.map (·.width)).sum = 8)
    ∧ (∀ m, c.codeMode.code m ≤ 15) ∧ (∀ f, c.codeFan.code f ≤ 15)
    ∧ (∀ v, c.codeVV.code v ≤ 15) ∧ (∀ h, c.codeHV.code h ≤ 15)
    ∧ (∀ b ∈ c.layout, ∀ e ∈ b,
        (e.source = .mode → ∀ m, c.codeMode.code m < 2 ^ e.width)
        ∧ (e.source = .fan → ∀ f, c.codeFan.code f < 2 ^ e.width)
        ∧ (e.source = .vvane → ∀ v, c.codeVV.code v < 2 ^ e.width)
        ∧ (e.source = .hvane → ∀ h, c.codeHV.code h < 2 ^ e.width)
        ∧ (∀ v, e.source = .const v → v ≤ 255))
    ∧ (∀ d ∈ [c.consts.hdrMark, c.consts.hdrSpace, c.consts.bitMark, c.consts.oneSpace, c.consts.zeroSpace,
        c.consts.gapSpace, c.consts.trailMark, c.consts.trailSpace], d < 2 ^ 16)
    ∧ c.consts.tempBias ≤ c.consts.tempMin)
  ∧ ∀ s : State, s.cfg.wf = false →
      step s = .refused .illFormedConfig ∧ ∀ i, exec i s = .refused .illFormedConfig

/-! ## The commands, one rule each: every form, its result, its frame and that it completes -/

/-- R150. -/
def Obligations.NopRule : Prop :=
  WordsOf 0x0 0x0FFFFFFF (fun _ => .nop) ∧ ∀ s : State, s.cfg.wf = true → exec .nop s = .next (answered 0 s)

/-- R94. -/
def Obligations.ClrbRule : Prop :=
  WordsOf 0x1 0x0FFFFFFF (fun _ => .clrb)
  ∧ ∀ s : State, s.cfg.wf = true →
      exec .clrb s = .next (answered 0 { s with fb := 0, blen := 0, sv := false, pv := false })

/-- R93, R92: `PUT` on a bad width, on a field that does not fit, and on one that fits: then the `w` bits from the old `BLEN` on
spell the value, every other frame bit is unchanged, and so is all other state but `BLEN`, the flags and `LASTERR`. -/
def Obligations.PutRule : Prop :=
  WordsOf 0x2 0x00FFFF00 (fun w => .put (w.extractLsb' 24 4) (w.extractLsb' 0 8))
  ∧ ∀ (s : State) (w : BitVec 4) (v : Byte), s.cfg.wf = true →
    ((w.toNat = 0 ∨ 9 ≤ w.toNat) → exec (.put w v) s = .next (faultOnly .illegalCommand s))
    ∧ (1 ≤ w.toNat → w.toNat ≤ 8 → 72 < s.blen.toNat + w.toNat →
        exec (.put w v) s = .next (faultOnly .bufferOverflow s))
    ∧ (1 ≤ w.toNat → w.toNat ≤ 8 → s.blen.toNat + w.toNat ≤ 72 →
        ∃ t, exec (.put w v) s = .next t
          ∧ (∀ j < w.toNat, t.fb.getLsbD (s.blen.toNat + j) = v.getLsbD j)
          ∧ (∀ k, k < s.blen.toNat ∨ s.blen.toNat + w.toNat ≤ k → t.fb.getLsbD k = s.fb.getLsbD k)
          ∧ t.blen.toNat = s.blen.toNat + w.toNat
          ∧ t = answered 0 { s with fb := t.fb, blen := t.blen, sv := false, pv := false })

/-- R123, R122, R121: `CSUM` on a wrong length, and on bytes 0 to 7: then byte 8 is 16 times the nibble sum plus CSUM_BIAS
modulo 16, bytes 0 to 7 and all other state but `BLEN`, the flags and `LASTERR` are unchanged. -/
def Obligations.CsumRule : Prop :=
  WordsOf 0x3 0x0FFFFFFF (fun _ => .csum)
  ∧ ∀ s : State, s.cfg.wf = true →
    (s.blen.toNat ≠ 64 → exec .csum s = .next (faultOnly .badFrameLength s))
    ∧ (s.blen.toNat = 64 →
        ∃ t, exec .csum s = .next t
          ∧ (frameByte t.fb 8).toNat =
              16 * (((frameByte s.fb 0).toNat % 16 + (frameByte s.fb 1).toNat % 16 + (frameByte s.fb 2).toNat % 16
                + (frameByte s.fb 3).toNat % 16 + (frameByte s.fb 5).toNat / 16 + (frameByte s.fb 6).toNat / 16
                + (frameByte s.fb 7).toNat / 16 + s.cfg.consts.csumBias) % 16)
          ∧ (∀ k < 64, t.fb.getLsbD k = s.fb.getLsbD k)
          ∧ t.blen.toNat = 72
          ∧ t = answered 0 { s with fb := t.fb, blen := t.blen, sv := false, pv := false })

/-- R107, R106, R105, R170: `BUILD` rejects a reserved tag, then a temperature out of range; else the frame registers hold the
nine byte-strings of `encode(P)`, and `S`, `PB` and everything else but `BLEN`, the flags and `LASTERR` are unchanged. -/
def Obligations.BuildRule : Prop :=
  WordsOf 0x4 0x0FE00000 (fun w => .build (fieldsOfPW w))
  ∧ ∀ (s : State) (p : ParamWord), s.cfg.wf = true →
    (¬ LegalTags p → exec (.build p) s = .next (rejected .illegalParam s))
    ∧ (LegalTags p → ¬ LegalTemp s.cfg.consts p → exec (.build p) s = .next (rejected .rangeError s))
    ∧ (LegalTags p → LegalTemp s.cfg.consts p →
        ∃ t P bs, exec (.build p) s = .next t
          ∧ decodeParams p = some P ∧ encodeFrame s.cfg P = some bs
          ∧ frameByteStrings t.fb = bs
          ∧ t.blen.toNat = 72
          ∧ t = answered 0 { s with fb := t.fb, blen := t.blen, sv := false, pv := false })

/-- R137: `SYM` on an incomplete frame, and on a complete one: then every symbol is the frame bit R130 names, the gap stands at
index 35, and all other state but the flags and `LASTERR` is unchanged. -/
def Obligations.SymRule : Prop :=
  WordsOf 0x5 0x0FFFFFFF (fun _ => .sym)
  ∧ ∀ s : State, s.cfg.wf = true →
    (s.blen.toNat ≠ 72 → exec .sym s = .next (faultOnly .badFrameLength s))
    ∧ (s.blen.toNat = 72 →
        ∃ t, exec .sym s = .next t
          ∧ (∀ (k : Nat) (h : k ≤ 34), (symbolBits t.symbols[k]).toNat = (s.fb.getLsbD k).toNat)
          ∧ (symbolBits t.symbols[35]).toNat = 2
          ∧ (∀ (k : Nat) (_ : 36 ≤ k) (h : k ≤ 67), (symbolBits t.symbols[k]).toNat = (s.fb.getLsbD (k + 4)).toNat)
          ∧ t = answered 0 { s with symbols := t.symbols, sv := true, pv := false })

/-- R138, R132: `PULSE` without valid symbols, and with them: then the header, one pair per symbol and the trailer stand in `PB`,
and all other state but `PV` and `LASTERR` is unchanged. -/
def Obligations.PulseRule : Prop :=
  WordsOf 0x6 0x0FFFFFFF (fun _ => .pulse)
  ∧ ∀ s : State, s.cfg.wf = true →
    (s.sv = false → exec .pulse s = .next (faultOnly .notValid s))
    ∧ (s.sv = true →
        ∃ t, exec .pulse s = .next t
          ∧ t.pulses[0].toNat = s.cfg.consts.hdrMark ∧ t.pulses[1].toNat = s.cfg.consts.hdrSpace
          ∧ (∀ (k : Nat) (h : k ≤ 67),
              t.pulses[2 + 2 * k].toNat = s.cfg.consts.bitMark
              ∧ (s.symbols[k] = .zero → t.pulses[3 + 2 * k].toNat = s.cfg.consts.zeroSpace)
              ∧ (s.symbols[k] = .one → t.pulses[3 + 2 * k].toNat = s.cfg.consts.oneSpace)
              ∧ (s.symbols[k] = .gap → t.pulses[3 + 2 * k].toNat = s.cfg.consts.gapSpace))
          ∧ t.pulses[138].toNat = s.cfg.consts.trailMark ∧ t.pulses[139].toNat = s.cfg.consts.trailSpace
          ∧ t = answered 0 { s with pulses := t.pulses, pv := true })

/-- R139: `ENCODE` has exactly the faults of `BUILD`, and otherwise ends in the state that `BUILD`, `SYM` and `PULSE` issued in turn
end in, each of them without a fault. -/
def Obligations.EncodeRule : Prop :=
  WordsOf 0x7 0x0FE00000 (fun w => .encode (fieldsOfPW w))
  ∧ ∀ (s : State) (p : ParamWord), s.cfg.wf = true →
    (¬ LegalTags p → exec (.encode p) s = .next (rejected .illegalParam s))
    ∧ (LegalTags p → ¬ LegalTemp s.cfg.consts p → exec (.encode p) s = .next (rejected .rangeError s))
    ∧ (LegalTags p → LegalTemp s.cfg.consts p →
        ∃ t1 t2 t, exec (.build p) s = .next t1 ∧ exec .sym t1 = .next t2 ∧ exec .pulse t2 = .next t
          ∧ exec (.encode p) s = .next t
          ∧ t1.lasterr = .ok ∧ t2.lasterr = .ok ∧ t.lasterr = .ok ∧ t.response = some ⟨.ok, 0⟩
          ∧ t.sv = true ∧ t.pv = true)

/-- R151: `RDF` on an index out of range, on a byte not fully written, and else the byte, zero-extended. -/
def Obligations.RdfRule : Prop :=
  WordsOf 0x8 0x0FFFFF00 (fun w => .rdf (w.extractLsb' 0 8))
  ∧ ∀ (s : State) (i : Byte), s.cfg.wf = true →
    (8 < i.toNat → exec (.rdf i) s = .next (faultOnly .illegalCommand s))
    ∧ (i.toNat ≤ 8 → s.blen.toNat < 8 * i.toNat + 8 → exec (.rdf i) s = .next (faultOnly .notValid s))
    ∧ (i.toNat ≤ 8 → 8 * i.toNat + 8 ≤ s.blen.toNat →
        ∃ d, exec (.rdf i) s = .next (answered d s)
          ∧ (∀ j < 8, d.getLsbD j = s.fb.getLsbD (8 * i.toNat + j)) ∧ d.extractLsb' 8 8 = 0)

/-- R152: `RDS` on an index out of range, without valid symbols, and else the 2-bit code, zero-extended: where the invariant holds,
2 at index 35 and 0 or 1 at every other. -/
def Obligations.RdsRule : Prop :=
  WordsOf 0x9 0x0FFFFF00 (fun w => .rds (w.extractLsb' 0 8))
  ∧ ∀ (s : State) (i : Byte), s.cfg.wf = true →
    (67 < i.toNat → exec (.rds i) s = .next (faultOnly .illegalCommand s))
    ∧ (i.toNat ≤ 67 → s.sv = false → exec (.rds i) s = .next (faultOnly .notValid s))
    ∧ (∀ (h : i.toNat ≤ 67), s.sv = true →
        ∃ d, exec (.rds i) s = .next (answered d s)
          ∧ (s.symbols[i.toNat] = .zero → d = 0) ∧ (s.symbols[i.toNat] = .one → d = 1)
          ∧ (s.symbols[i.toNat] = .gap → d = 2)
          ∧ (s.Inv → (i.toNat = 35 → d = 2) ∧ (i.toNat ≠ 35 → d = 0 ∨ d = 1)))

/-- R153: `RDP` on an index out of range, without valid pulses, and else the duration; where the invariant holds, the header and
trailer durations stand at the four fixed indexes. -/
def Obligations.RdpRule : Prop :=
  WordsOf 0xA 0x0FFFFF00 (fun w => .rdp (w.extractLsb' 0 8))
  ∧ ∀ (s : State) (i : Byte), s.cfg.wf = true →
    (139 < i.toNat → exec (.rdp i) s = .next (faultOnly .illegalCommand s))
    ∧ (i.toNat ≤ 139 → s.pv = false → exec (.rdp i) s = .next (faultOnly .notValid s))
    ∧ (∀ (h : i.toNat ≤ 139), s.pv = true → exec (.rdp i) s = .next (answered s.pulses[i.toNat] s))
    ∧ (s.Inv → s.pv = true →
        s.pulses[0].toNat = s.cfg.consts.hdrMark ∧ s.pulses[1].toNat = s.cfg.consts.hdrSpace
        ∧ s.pulses[138].toNat = s.cfg.consts.trailMark ∧ s.pulses[139].toNat = s.cfg.consts.trailSpace)

/-- R154, R28: a well-formed `RDST` answers with the fields of `STATUS` and writes nothing, not even `LASTERR`. -/
def Obligations.RdstRule : Prop :=
  WordsOf 0xB 0x0FFFFFFF (fun _ => .rdst)
  ∧ ∀ s : State, s.cfg.wf = true →
    ∃ d : BitVec 16, exec .rdst s = .next { s with response := some ⟨.ok, d⟩ }
      ∧ d.extractLsb' 0 7 = s.blen ∧ d.getLsbD 7 = s.sv ∧ d.getLsbD 8 = s.pv
      ∧ d.extractLsb' 9 4 = s.lasterr.bits ∧ d.extractLsb' 13 3 = 0

/-! ## Faults, flags and frames of the whole command set -/

/-- R171: a fault other than a rejection changes nothing but `LASTERR` (and the response), on any command word, well-formed or
not. -/
def Obligations.DefaultFaultChangesOnlyLastErr : Prop :=
  ∀ (s t : State) (w : Word) (rest : List HostEvent) (r : Response), s.pending = .command w :: rest →
    step s = .next t → t.response = some r →
    (r.code = .illegalCommand ∨ r.code = .bufferOverflow ∨ r.code = .badFrameLength ∨ r.code = .notValid) →
    t = faultOnly r.code { s with pending := rest }

/-- R172: only `BUILD` and `ENCODE` reject; a rejection clears the frame and both flags and leaves `S` and `PB`; and after it every
`RDF`, `RDS`, `RDP`, `PULSE`, `SYM` and `CSUM` faults, however many commands the host issues before it packs or builds again. -/
def Obligations.RejectionInvalidatesEverything : Prop :=
  ∀ (i : Instr) (s t : State) (r : Response), exec i s = .next t → t.response = some r →
    (r.code = .rangeError ∨ r.code = .illegalParam) →
    (∃ p, i = .build p ∨ i = .encode p) ∧ t = rejected r.code s
    ∧ ∀ js : List Instr, (∀ j ∈ js, needsResult j = true ∨ j = .nop ∨ j = .rdst ∨ j = .clrb) →
        ∃ u, issueAll js t = .next u
          ∧ ∀ j, needsResult j = true → ∃ v q, exec j u = .next v ∧ v.response = some q ∧ q.code ≠ .ok

/-- R28: `LASTERR` is the response code of the most recent command other than a well-formed `RDST`, malformed words included. -/
def Obligations.LastErrIsTheLastResponseCode : Prop :=
  ∀ (s t : State) (w : Word) (rest : List HostEvent) (r : Response), s.pending = .command w :: rest →
    step s = .next t → t.response = some r →
    (decode w ≠ .command .rdst → t.lasterr = r.code) ∧ (decode w = .command .rdst → t.lasterr = s.lasterr ∧ r.code = .ok)

/-- R61: a fault carries no data, and of the successful commands only the four reads carry any. -/
def Obligations.OnlySuccessfulReadsCarryData : Prop :=
  ∀ (i : Instr) (s t : State) (r : Response), exec i s = .next t → t.response = some r →
    (r.code ≠ .ok ∨ isRead i = false) → r.data = 0

/-- R26: which command sets and clears each validity flag, on success, on rejection and on any other fault. -/
def Obligations.ValidityFlagTable : Prop :=
  ∀ (i : Instr) (s t : State) (r : Response), exec i s = .next t → t.response = some r →
    (r.code = .ok →
      (i = .sym → t.sv = true ∧ t.pv = false)
      ∧ (i = .pulse → t.sv = s.sv ∧ t.pv = true)
      ∧ ((∃ p, i = .encode p) → t.sv = true ∧ t.pv = true)
      ∧ ((i = .clrb ∨ i = .csum ∨ (∃ w v, i = .put w v) ∨ ∃ p, i = .build p) → t.sv = false ∧ t.pv = false)
      ∧ ((i = .nop ∨ isRead i = true) → t.sv = s.sv ∧ t.pv = s.pv))
    ∧ ((r.code = .rangeError ∨ r.code = .illegalParam) → t.sv = false ∧ t.pv = false)
    ∧ ((r.code = .illegalCommand ∨ r.code = .bufferOverflow ∨ r.code = .badFrameLength ∨ r.code = .notValid) →
        t.sv = s.sv ∧ t.pv = s.pv)

/-- R33, R24, R25, R32: only these commands write the frame, `S` and `PB`; no command writes the configuration or takes an event
that is not its own. -/
def Obligations.OnlyTheseCommandsWrite : Prop :=
  ∀ (i : Instr) (s t : State), exec i s = .next t →
    (t.fb ≠ s.fb ∨ t.blen ≠ s.blen → i = .clrb ∨ i = .csum ∨ (∃ w v, i = .put w v) ∨ ∃ p, i = .build p ∨ i = .encode p)
    ∧ (t.symbols ≠ s.symbols → i = .sym ∨ ∃ p, i = .encode p)
    ∧ (t.pulses ≠ s.pulses → i = .pulse ∨ ∃ p, i = .encode p)
    ∧ t.cfg = s.cfg ∧ t.pending = s.pending ∧ t.resets = s.resets

/-- R47: a read changes nothing but `LASTERR` (`RDST` not even that), and reading again answers the same and changes nothing more. -/
def Obligations.ReadsAreIdempotent : Prop :=
  ∀ (i : Instr) (s t : State), isRead i = true → exec i s = .next t →
    t = { s with lasterr := t.lasterr, response := t.response } ∧ (i = .rdst → t.lasterr = s.lasterr)
    ∧ exec i t = .next t

/-! ## Invariants -/

/-- R22, R23, R26, R31, R61: the reset state has the invariant. That its configuration is well-formed is about the default
configuration, which is the model's choice (PRESUMED, log 2). -/
def Obligations.ResetHasTheInvariant : Prop := State.reset.Inv ∧ State.reset.cfg.wf = true

/-- R22, R23, R26 (I-S) and (I-P): whatever the next event is, a step keeps the invariant. -/
def Obligations.StepKeepsTheInvariant : Prop :=
  ∀ s t : State, s.Inv → step s = .next t → t.Inv

/-- R32: the configuration is never written, by any step. -/
def Obligations.StepKeepsTheConfiguration : Prop :=
  ∀ s t : State, step s = .next t → t.cfg = s.cfg

/-- R31, R24, R25: no command's response depends on the contents of `S` while `SV = 0` or of `PB` while `PV = 0`: two states the
host cannot tell apart stay so, step after step, and answer alike. -/
def Obligations.UnobservableBuffersNeverMatter : Prop :=
  ∀ s t s' : State, SameToHost s t → step s = .next s' →
    ∃ t', step t = .next t' ∧ SameToHost s' t' ∧ s'.response = t'.response

/-- R31: the values after reset. -/
def Obligations.ResetValues : Prop :=
  State.reset.fb = 0 ∧ State.reset.blen = 0 ∧ State.reset.sv = false ∧ State.reset.pv = false
  ∧ State.reset.lasterr = .ok ∧ State.reset.statusWord = 0

/-- R191: in the reset state, whatever `S` and `PB` hold, each command answers as the rule lists. -/
def Obligations.CommandsInTheResetState : Prop :=
  ∀ s : State, s.cfg.wf = true → SameToHost s { State.reset with cfg := s.cfg, pending := s.pending } →
    exec .rdst s = .next { s with response := some ⟨.ok, 0⟩ }
    ∧ (∀ i : Byte, i.toNat ≤ 8 → exec (.rdf i) s = .next (faultOnly .notValid s))
    ∧ (∀ i : Byte, i.toNat ≤ 67 → exec (.rds i) s = .next (faultOnly .notValid s))
    ∧ (∀ i : Byte, i.toNat ≤ 139 → exec (.rdp i) s = .next (faultOnly .notValid s))
    ∧ exec .pulse s = .next (faultOnly .notValid s)
    ∧ exec .sym s = .next (faultOnly .badFrameLength s) ∧ exec .csum s = .next (faultOnly .badFrameLength s)
    ∧ (∀ i, (i = .nop ∨ i = .clrb ∨ (∃ w v, i = .put w v ∧ 1 ≤ w.toNat ∧ w.toNat ≤ 8)
        ∨ ∃ p, (i = .build p ∨ i = .encode p) ∧ LegalTags p ∧ LegalTemp s.cfg.consts p) →
        ∃ t, exec i s = .next t ∧ t.response = some ⟨.ok, 0⟩)

/-- R191: a successful `CLRB` reaches the reset state from any state, up to the contents of `S` and `PB`. -/
def Obligations.ClrbReachesTheResetState : Prop :=
  ∀ s : State, s.cfg.wf = true →
    ∃ t, exec .clrb s = .next t
      ∧ SameToHost t { State.reset with cfg := s.cfg, pending := s.pending, response := some ⟨.ok, 0⟩ }

/-! ## The three stages -/

/-- R91: truncation, value, split, zero and all-ones of the bit-field encoder, on R90's domain of widths 1 to 8 and values 0 to
255. -/
def Obligations.EncoderLaws : Prop :=
  (∀ v w, 1 ≤ w → w ≤ 8 → v ≤ 255 →
    (enc v w).length = w ∧ enc v w = enc (v % 2 ^ w) w ∧ bitsVal (enc v w) = v % 2 ^ w)
  ∧ (∀ v, v ≤ 255 → bitsVal (enc v 8) = v)
  ∧ (∀ v w1 w2, 1 ≤ w1 → 1 ≤ w2 → w1 + w2 ≤ 8 → v ≤ 255 → enc v (w1 + w2) = enc v w1 ++ enc (v / 2 ^ w1) w2)
  ∧ (∀ w, 1 ≤ w → w ≤ 8 → enc 0 w = List.replicate w false ∧ enc (2 ^ w - 1) w = List.replicate w true)
  ∧ enc 0x5 4 = [true, false, true, false] ∧ enc 0xA 4 = [false, true, false, true]
  ∧ enc 0x12 4 = [false, true, false, false] ∧ enc 2 3 = [false, true, false]

/-- R100: the swing field is 1 exactly when both vanes are swing enumerants, else 0, whatever the configuration; the two vane codes
stand in their own fields beside it. -/
def Obligations.SwingNeedsBothAxes : Prop :=
  ∀ (c : Config) (P : Params),
    (fieldVal c P .swing =
      if (P.vv = .swingAll ∨ P.vv = .swingLow ∨ P.vv = .swingCenter ∨ P.vv = .swingHigh)
        ∧ (P.hv = .swingAll ∨ P.hv = .swingSpread) then 1 else 0)
    ∧ fieldVal c P .vvane = c.codeVV.code P.vv ∧ fieldVal c P .hvane = c.codeHV.code P.hv

/-- R108 (a), (c), R122: for every well-formed configuration, after a successful `BUILD` or `ENCODE` recomputing the checksum from
bytes 0 to 7 matches byte 8's high nibble, and byte 8's low nibble is 0. -/
def Obligations.BuiltFrameChecksumMatches : Prop :=
  ∀ (s t : State) (p : ParamWord) (i : Instr), (i = .build p ∨ i = .encode p) → exec i s = .next t →
    t.response = some ⟨.ok, 0⟩ →
    (frameByte t.fb 8).toNat / 16 =
      ((frameByte t.fb 0).toNat % 16 + (frameByte t.fb 1).toNat % 16 + (frameByte t.fb 2).toNat % 16
        + (frameByte t.fb 3).toNat % 16 + (frameByte t.fb 5).toNat / 16 + (frameByte t.fb 6).toNat / 16
        + (frameByte t.fb 7).toNat / 16 + t.cfg.consts.csumBias) % 16
    ∧ (frameByte t.fb 8).toNat % 16 = 0

/-- R108 (d): the bytes `BUILD` makes under LAYOUT_DEFAULT, whatever the codes. The layout is the spec's default from general
knowledge (log 2), and the premise names it. -/
def Obligations.DefaultLayoutBytes : Prop :=
  ∀ (s t : State) (p : ParamWord) (P : Params), s.cfg.layout = layoutDefault → s.cfg.consts = Constants.source →
    decodeParams p = some P → exec (.build p) s = .next t → t.response = some ⟨.ok, 0⟩ →
    (frameByte t.fb 0).toNat = s.cfg.codeMode.code P.mode + 8 * P.power.toNat + 16 * s.cfg.codeFan.code P.fan
        + 64 * (swing P).toNat
    ∧ (frameByte t.fb 1).toNat = P.temp - 16
    ∧ frameByte t.fb 2 = 0x20 ∧ frameByte t.fb 3 = 0x50 ∧ frameByte t.fb 4 = 0x02
    ∧ (frameByte t.fb 5).toNat = s.cfg.codeVV.code P.vv + 16 * s.cfg.codeHV.code P.hv
    ∧ frameByte t.fb 6 = 0x20 ∧ frameByte t.fb 7 = 0x00

/-- R120: bits of the frame outside the seven nibbles have no influence on the checksum: two frames that agree on them get the same
byte 8 from `CSUM`. -/
def Obligations.ChecksumReadsOnlySevenNibbles : Prop :=
  ∀ s s' t t' : State, s.cfg.consts = s'.cfg.consts → s.blen.toNat = 64 → s'.blen.toNat = 64 →
    (∀ k, (∃ i < 4, 8 * i ≤ k ∧ k < 8 * i + 4) ∨ (∃ i, 5 ≤ i ∧ i ≤ 7 ∧ 8 * i + 4 ≤ k ∧ k < 8 * i + 8) →
      s.fb.getLsbD k = s'.fb.getLsbD k) →
    exec .csum s = .next t → exec .csum s' = .next t' → frameByte t.fb 8 = frameByte t'.fb 8

/-- R130: the symbol string `SYM` makes is the concatenation of the byte-strings R130 writes, whose length is 68 with the one gap at
index 35 (R131). -/
def Obligations.SymbolsAreTheByteStringsConcatenated : Prop :=
  ∀ s t : State, s.cfg.wf = true → s.blen.toNat = 72 → exec .sym s = .next t →
    t.symbols.toList = symbolString (frameByteStrings s.fb)
    ∧ t.symbols.toList.length = 68 ∧ ∀ (k : Nat) (h : k ≤ 67), t.symbols[k] = .gap ↔ k = 35

/-- R130: frame bits 35 to 39 have no effect on the symbol string: two frames that agree on the others get the same symbols. -/
def Obligations.DroppedBitsReachNoSymbol : Prop :=
  ∀ s s' t t' : State, s.blen.toNat = 72 → s'.blen.toNat = 72 →
    (∀ k, k < 35 ∨ 40 ≤ k → s.fb.getLsbD k = s'.fb.getLsbD k) →
    exec .sym s = .next t → exec .sym s' = .next t' → t.symbols = t'.symbols

/-- R133, R136: the pulse sequence `PULSE` makes is the header pair, one pair per symbol and the trailer pair, 140 values. -/
def Obligations.PulsesAreTheSequenceOfTheSymbols : Prop :=
  ∀ s t : State, s.sv = true → exec .pulse s = .next t →
    t.pulses.toList.map (·.toNat) = pulseSequence s.cfg.consts s.symbols.toList
    ∧ (pulseSequence s.cfg.consts s.symbols.toList).length = 2 + 2 * 68 + 2

/-- R139, R17: `ENCODE` is the source's `toPulses(encode(params))`: the pure functions composed give exactly the pulse buffer. -/
def Obligations.EncodeIsTheSourcePipeline : Prop :=
  ∀ (s : State) (p : ParamWord), s.cfg.wf = true → LegalTags p → LegalTemp s.cfg.consts p →
    ∃ t P bs, exec (.encode p) s = .next t ∧ t.pv = true
      ∧ decodeParams p = some P ∧ encodeFrame s.cfg P = some bs
      ∧ t.pulses.toList.map (·.toNat) = pulseSequence s.cfg.consts (symbolString bs)

/-- R134, R136: with the constants of R9, a readable pulse buffer begins 9211, 4605, ends 605, 40947, has the gap 20474 at index 73
and nowhere else, 605 at every other mark, and at every other space 605 or 1684 as its symbol is '0' or '1'. -/
def Obligations.ReadablePulsesHaveTheProtocolShape : Prop :=
  ∀ s : State, s.Inv → s.pv = true → s.cfg.consts = Constants.source →
    s.pulses[0].toNat = 9211 ∧ s.pulses[1].toNat = 4605 ∧ s.pulses[138].toNat = 605 ∧ s.pulses[139].toNat = 40947
    ∧ ∀ (k : Nat) (h : k ≤ 67), s.pulses[2 + 2 * k].toNat = 605
        ∧ (k = 35 → s.pulses[3 + 2 * k].toNat = 20474)
        ∧ (k ≠ 35 → (s.symbols[k] = .zero ∧ s.pulses[3 + 2 * k].toNat = 605)
            ∨ (s.symbols[k] = .one ∧ s.pulses[3 + 2 * k].toNat = 1684))

/-- R140: with the constants of R9 and `n1` ones among the 67 bit symbols, the durations of a readable pulse buffer sum to
157517 + 1079 * n1 (116570 + 1079 * n1 without the trailer space). -/
def Obligations.TotalDurationCountsTheOnes : Prop :=
  ∀ s : State, s.Inv → s.pv = true → s.cfg.consts = Constants.source →
    onesOf s.symbols ≤ 67
    ∧ totalDuration s.pulses = 157517 + 1079 * onesOf s.symbols
    ∧ totalDuration s.pulses - 40947 = 116570 + 1079 * onesOf s.symbols

/-- R195, R107, R192: a successful `BUILD` or `ENCODE` takes nothing from an earlier frame: from two states with the same
configuration it gives the same frame, flags, code and response, and `ENCODE` the same symbols and pulses. -/
def Obligations.BuildAndEncodeForgetTheOldFrame : Prop :=
  ∀ (s s' t t' : State) (p : ParamWord) (i : Instr), s.cfg = s'.cfg → (i = .build p ∨ i = .encode p) →
    exec i s = .next t → exec i s' = .next t' →
    t.fb = t'.fb ∧ t.blen = t'.blen ∧ t.sv = t'.sv ∧ t.pv = t'.pv ∧ t.lasterr = t'.lasterr ∧ t.response = t'.response
    ∧ (i = .encode p → t.lasterr = .ok → t.symbols = t'.symbols ∧ t.pulses = t'.pulses)

/-- R81, R17: `LDFRAME8` loads bytes 0 to 7 of a hand-made frame, ready for `CSUM`, from any state. -/
def Obligations.LdFrameLoadsEightBytes : Prop :=
  ∀ (s : State) (b0 b1 b2 b3 b4 b5 b6 b7 : Byte), s.cfg.wf = true →
    ∃ t, issueAll (Pseudo.ldframe8 b0 b1 b2 b3 b4 b5 b6 b7).expand s = .next t
      ∧ t.response = some ⟨.ok, 0⟩ ∧ t.blen.toNat = 64
      ∧ (List.range 8).map (frameByte t.fb) = [b0, b1, b2, b3, b4, b5, b6, b7]
      ∧ t.symbols = s.symbols ∧ t.pulses = s.pulses ∧ t.sv = false ∧ t.pv = false

/-- R153, R199: after an `ENCODE` the host obtains the source's whole output by reading `RDP 0` to `RDP 139` in any order, any number of
times, with any other reads and `NOP`s between. -/
def Obligations.ReadOutGivesTheWholeSequence : Prop :=
  ∀ (s : State) (p : ParamWord) (js : List Instr), s.cfg.wf = true → LegalTags p → LegalTemp s.cfg.consts p →
    (∀ j ∈ js, isRead j = true ∨ j = .nop) →
    ∃ t u P bs, exec (.encode p) s = .next t ∧ issueAll js t = .next u
      ∧ decodeParams p = some P ∧ encodeFrame s.cfg P = some bs
      ∧ ∀ i : Byte, i.toNat ≤ 139 →
          ∃ v d, exec (.rdp i) u = .next v ∧ v.response = some ⟨.ok, d⟩
            ∧ (pulseSequence s.cfg.consts (symbolString bs))[i.toNat]? = some d.toNat

/-- The frame of V30 under this spec's default configuration (95_test_vectors.md; the defaults are PRESUMED, log 2). -/
def Obligations.DefaultScenarioFrame : Prop :=
  ∃ t, exec (.encode ⟨25, 0, true, 0, 0, 0⟩) State.reset = .next t
    ∧ t.frame = [0x08, 0x09, 0x20, 0x50, 0x02, 0x00, 0x20, 0x00, 0xD0] ∧ t.statusWord = 0x01C8
end

