-- ==== Sys2Proof/Laws/State.lean ====
section
/-! SUPPORT. One lemma per field per update of State, so that no later proof unfolds a record update; and the fields that the
whole frame builder leaves alone. -/

namespace Sys2Proof.Machine

/-! ### `clearValid` -/

@[simp] theorem clearValid_cfg (s : State) : (s.clearValid).cfg = s.cfg := by simp only [State.clearValid]
@[simp] theorem clearValid_fb (s : State) : (s.clearValid).fb = s.fb := by simp only [State.clearValid]
@[simp] theorem clearValid_blen (s : State) : (s.clearValid).blen = s.blen := by simp only [State.clearValid]
@[simp] theorem clearValid_symbols (s : State) : (s.clearValid).symbols = s.symbols := by simp only [State.clearValid]
@[simp] theorem clearValid_pulses (s : State) : (s.clearValid).pulses = s.pulses := by simp only [State.clearValid]
@[simp] theorem clearValid_sv (s : State) : (s.clearValid).sv = false := by simp only [State.clearValid]
@[simp] theorem clearValid_pv (s : State) : (s.clearValid).pv = false := by simp only [State.clearValid]
@[simp] theorem clearValid_lasterr (s : State) : (s.clearValid).lasterr = s.lasterr := by simp only [State.clearValid]
@[simp] theorem clearValid_response (s : State) : (s.clearValid).response = s.response := by simp only [State.clearValid]
@[simp] theorem clearValid_pending (s : State) : (s.clearValid).pending = s.pending := by simp only [State.clearValid]
@[simp] theorem clearValid_resets (s : State) : (s.clearValid).resets = s.resets := by simp only [State.clearValid]

/-! ### `clearFrame` -/

@[simp] theorem clearFrame_cfg (s : State) : (s.clearFrame).cfg = s.cfg := by simp only [State.clearFrame]
@[simp] theorem clearFrame_fb (s : State) : (s.clearFrame).fb = 0 := by simp only [State.clearFrame]
@[simp] theorem clearFrame_blen (s : State) : (s.clearFrame).blen = 0 := by simp only [State.clearFrame]
@[simp] theorem clearFrame_symbols (s : State) : (s.clearFrame).symbols = s.symbols := by simp only [State.clearFrame]
@[simp] theorem clearFrame_pulses (s : State) : (s.clearFrame).pulses = s.pulses := by simp only [State.clearFrame]
@[simp] theorem clearFrame_sv (s : State) : (s.clearFrame).sv = false := by simp only [State.clearFrame]
@[simp] theorem clearFrame_pv (s : State) : (s.clearFrame).pv = false := by simp only [State.clearFrame]
@[simp] theorem clearFrame_lasterr (s : State) : (s.clearFrame).lasterr = s.lasterr := by simp only [State.clearFrame]
@[simp] theorem clearFrame_response (s : State) : (s.clearFrame).response = s.response := by simp only [State.clearFrame]
@[simp] theorem clearFrame_pending (s : State) : (s.clearFrame).pending = s.pending := by simp only [State.clearFrame]
@[simp] theorem clearFrame_resets (s : State) : (s.clearFrame).resets = s.resets := by simp only [State.clearFrame]

/-! ### `respond` -/

@[simp] theorem respond_cfg (s : State) (c : RespCode) (d : BitVec 16) : (s.respond c d).cfg = s.cfg := by simp only [State.respond]
@[simp] theorem respond_fb (s : State) (c : RespCode) (d : BitVec 16) : (s.respond c d).fb = s.fb := by simp only [State.respond]
@[simp] theorem respond_blen (s : State) (c : RespCode) (d : BitVec 16) : (s.respond c d).blen = s.blen := by simp only [State.respond]
@[simp] theorem respond_symbols (s : State) (c : RespCode) (d : BitVec 16) : (s.respond c d).symbols = s.symbols := by simp only [State.respond]
@[simp] theorem respond_pulses (s : State) (c : RespCode) (d : BitVec 16) : (s.respond c d).pulses = s.pulses := by simp only [State.respond]
@[simp] theorem respond_sv (s : State) (c : RespCode) (d : BitVec 16) : (s.respond c d).sv = s.sv := by simp only [State.respond]
@[simp] theorem respond_pv (s : State) (c : RespCode) (d : BitVec 16) : (s.respond c d).pv = s.pv := by simp only [State.respond]
@[simp] theorem respond_lasterr (s : State) (c : RespCode) (d : BitVec 16) : (s.respond c d).lasterr = c := by simp only [State.respond]
@[simp] theorem respond_response (s : State) (c : RespCode) (d : BitVec 16) : (s.respond c d).response = some ⟨c, d⟩ := by simp only [State.respond]
@[simp] theorem respond_pending (s : State) (c : RespCode) (d : BitVec 16) : (s.respond c d).pending = s.pending := by simp only [State.respond]
@[simp] theorem respond_resets (s : State) (c : RespCode) (d : BitVec 16) : (s.respond c d).resets = s.resets := by simp only [State.respond]

/-! ### `respondUnrecorded` -/

@[simp] theorem respondUnrecorded_cfg (s : State) (d : BitVec 16) : (s.respondUnrecorded d).cfg = s.cfg := by simp only [State.respondUnrecorded]
@[simp] theorem respondUnrecorded_fb (s : State) (d : BitVec 16) : (s.respondUnrecorded d).fb = s.fb := by simp only [State.respondUnrecorded]
@[simp] theorem respondUnrecorded_blen (s : State) (d : BitVec 16) : (s.respondUnrecorded d).blen = s.blen := by simp only [State.respondUnrecorded]
@[simp] theorem respondUnrecorded_symbols (s : State) (d : BitVec 16) : (s.respondUnrecorded d).symbols = s.symbols := by simp only [State.respondUnrecorded]
@[simp] theorem respondUnrecorded_pulses (s : State) (d : BitVec 16) : (s.respondUnrecorded d).pulses = s.pulses := by simp only [State.respondUnrecorded]
@[simp] theorem respondUnrecorded_sv (s : State) (d : BitVec 16) : (s.respondUnrecorded d).sv = s.sv := by simp only [State.respondUnrecorded]
@[simp] theorem respondUnrecorded_pv (s : State) (d : BitVec 16) : (s.respondUnrecorded d).pv = s.pv := by simp only [State.respondUnrecorded]
@[simp] theorem respondUnrecorded_lasterr (s : State) (d : BitVec 16) : (s.respondUnrecorded d).lasterr = s.lasterr := by simp only [State.respondUnrecorded]
@[simp] theorem respondUnrecorded_response (s : State) (d : BitVec 16) : (s.respondUnrecorded d).response = some ⟨.ok, d⟩ := by simp only [State.respondUnrecorded]
@[simp] theorem respondUnrecorded_pending (s : State) (d : BitVec 16) : (s.respondUnrecorded d).pending = s.pending := by simp only [State.respondUnrecorded]
@[simp] theorem respondUnrecorded_resets (s : State) (d : BitVec 16) : (s.respondUnrecorded d).resets = s.resets := by simp only [State.respondUnrecorded]

/-! ### `append` -/

@[simp] theorem append_cfg (s : State) (w v : Nat) : (s.append w v).cfg = s.cfg := by simp only [State.append]
@[simp] theorem append_fb (s : State) (w v : Nat) : (s.append w v).fb = writeBits s.fb s.blen.toNat (enc v w) := by simp only [State.append]
@[simp] theorem append_blen (s : State) (w v : Nat) : (s.append w v).blen = BitVec.ofNat 7 (s.blen.toNat + w) := by simp only [State.append]
@[simp] theorem append_symbols (s : State) (w v : Nat) : (s.append w v).symbols = s.symbols := by simp only [State.append]
@[simp] theorem append_pulses (s : State) (w v : Nat) : (s.append w v).pulses = s.pulses := by simp only [State.append]
@[simp] theorem append_sv (s : State) (w v : Nat) : (s.append w v).sv = s.sv := by simp only [State.append]
@[simp] theorem append_pv (s : State) (w v : Nat) : (s.append w v).pv = s.pv := by simp only [State.append]
@[simp] theorem append_lasterr (s : State) (w v : Nat) : (s.append w v).lasterr = s.lasterr := by simp only [State.append]
@[simp] theorem append_response (s : State) (w v : Nat) : (s.append w v).response = s.response := by simp only [State.append]
@[simp] theorem append_pending (s : State) (w v : Nat) : (s.append w v).pending = s.pending := by simp only [State.append]
@[simp] theorem append_resets (s : State) (w v : Nat) : (s.append w v).resets = s.resets := by simp only [State.append]

/-! ### `makeSymbols` -/

@[simp] theorem makeSymbols_cfg (s : State) : (s.makeSymbols).cfg = s.cfg := by simp only [State.makeSymbols]
@[simp] theorem makeSymbols_fb (s : State) : (s.makeSymbols).fb = s.fb := by simp only [State.makeSymbols]
@[simp] theorem makeSymbols_blen (s : State) : (s.makeSymbols).blen = s.blen := by simp only [State.makeSymbols]
@[simp] theorem makeSymbols_symbols (s : State) : (s.makeSymbols).symbols = symbolsOf s.fb := by simp only [State.makeSymbols]
@[simp] theorem makeSymbols_pulses (s : State) : (s.makeSymbols).pulses = s.pulses := by simp only [State.makeSymbols]
@[simp] theorem makeSymbols_sv (s : State) : (s.makeSymbols).sv = true := by simp only [State.makeSymbols]
@[simp] theorem makeSymbols_pv (s : State) : (s.makeSymbols).pv = false := by simp only [State.makeSymbols]
@[simp] theorem makeSymbols_lasterr (s : State) : (s.makeSymbols).lasterr = s.lasterr := by simp only [State.makeSymbols]
@[simp] theorem makeSymbols_response (s : State) : (s.makeSymbols).response = s.response := by simp only [State.makeSymbols]
@[simp] theorem makeSymbols_pending (s : State) : (s.makeSymbols).pending = s.pending := by simp only [State.makeSymbols]
@[simp] theorem makeSymbols_resets (s : State) : (s.makeSymbols).resets = s.resets := by simp only [State.makeSymbols]

/-! ### `makePulses` -/

@[simp] theorem makePulses_cfg (s : State) : (s.makePulses).cfg = s.cfg := by simp only [State.makePulses]
@[simp] theorem makePulses_fb (s : State) : (s.makePulses).fb = s.fb := by simp only [State.makePulses]
@[simp] theorem makePulses_blen (s : State) : (s.makePulses).blen = s.blen := by simp only [State.makePulses]
@[simp] theorem makePulses_symbols (s : State) : (s.makePulses).symbols = s.symbols := by simp only [State.makePulses]
@[simp] theorem makePulses_pulses (s : State) : (s.makePulses).pulses = pulsesOf s.cfg.consts s.symbols := by simp only [State.makePulses]
@[simp] theorem makePulses_sv (s : State) : (s.makePulses).sv = s.sv := by simp only [State.makePulses]
@[simp] theorem makePulses_pv (s : State) : (s.makePulses).pv = true := by simp only [State.makePulses]
@[simp] theorem makePulses_lasterr (s : State) : (s.makePulses).lasterr = s.lasterr := by simp only [State.makePulses]
@[simp] theorem makePulses_response (s : State) : (s.makePulses).response = s.response := by simp only [State.makePulses]
@[simp] theorem makePulses_pending (s : State) : (s.makePulses).pending = s.pending := by simp only [State.makePulses]
@[simp] theorem makePulses_resets (s : State) : (s.makePulses).resets = s.resets := by simp only [State.makePulses]

/-! ### `appendChecksum` -/

@[simp] theorem appendChecksum_cfg (s : State) : (s.appendChecksum).cfg = s.cfg := by simp only [State.appendChecksum, State.append]
@[simp] theorem appendChecksum_symbols (s : State) : (s.appendChecksum).symbols = s.symbols := by simp only [State.appendChecksum, State.append]
@[simp] theorem appendChecksum_pulses (s : State) : (s.appendChecksum).pulses = s.pulses := by simp only [State.appendChecksum, State.append]
@[simp] theorem appendChecksum_sv (s : State) : (s.appendChecksum).sv = s.sv := by simp only [State.appendChecksum, State.append]
@[simp] theorem appendChecksum_pv (s : State) : (s.appendChecksum).pv = s.pv := by simp only [State.appendChecksum, State.append]
@[simp] theorem appendChecksum_lasterr (s : State) : (s.appendChecksum).lasterr = s.lasterr := by simp only [State.appendChecksum, State.append]
@[simp] theorem appendChecksum_response (s : State) : (s.appendChecksum).response = s.response := by simp only [State.appendChecksum, State.append]
@[simp] theorem appendChecksum_pending (s : State) : (s.appendChecksum).pending = s.pending := by simp only [State.appendChecksum, State.append]
@[simp] theorem appendChecksum_resets (s : State) : (s.appendChecksum).resets = s.resets := by simp only [State.appendChecksum, State.append]

/-! ### `resetBlock` -/

@[simp] theorem resetBlock_cfg (s : State) : (resetBlock s).cfg = s.cfg := by simp only [resetBlock, State.reset]
@[simp] theorem resetBlock_fb (s : State) : (resetBlock s).fb = 0 := by simp only [resetBlock, State.reset]
@[simp] theorem resetBlock_blen (s : State) : (resetBlock s).blen = 0 := by simp only [resetBlock, State.reset]
@[simp] theorem resetBlock_sv (s : State) : (resetBlock s).sv = false := by simp only [resetBlock, State.reset]
@[simp] theorem resetBlock_pv (s : State) : (resetBlock s).pv = false := by simp only [resetBlock, State.reset]
@[simp] theorem resetBlock_lasterr (s : State) : (resetBlock s).lasterr = .ok := by simp only [resetBlock, State.reset]
@[simp] theorem resetBlock_response (s : State) : (resetBlock s).response = none := by simp only [resetBlock, State.reset]
@[simp] theorem resetBlock_pending (s : State) : (resetBlock s).pending = s.pending := by simp only [resetBlock, State.reset]
@[simp] theorem resetBlock_resets (s : State) : (resetBlock s).resets = s.resets + 1 := by simp only [resetBlock, State.reset]

/-! ### `presentWord` -/

@[simp] theorem presentWord_cfg (s : State) (n w : Nat) : (presentWord s n w).cfg = s.cfg := by simp only [presentWord]
@[simp] theorem presentWord_fb (s : State) (n w : Nat) : (presentWord s n w).fb = s.fb := by simp only [presentWord]
@[simp] theorem presentWord_blen (s : State) (n w : Nat) : (presentWord s n w).blen = s.blen := by simp only [presentWord]
@[simp] theorem presentWord_symbols (s : State) (n w : Nat) : (presentWord s n w).symbols = s.symbols := by simp only [presentWord]
@[simp] theorem presentWord_pulses (s : State) (n w : Nat) : (presentWord s n w).pulses = s.pulses := by simp only [presentWord]
@[simp] theorem presentWord_sv (s : State) (n w : Nat) : (presentWord s n w).sv = s.sv := by simp only [presentWord]
@[simp] theorem presentWord_pv (s : State) (n w : Nat) : (presentWord s n w).pv = s.pv := by simp only [presentWord]
@[simp] theorem presentWord_lasterr (s : State) (n w : Nat) : (presentWord s n w).lasterr = s.lasterr := by simp only [presentWord]
@[simp] theorem presentWord_response (s : State) (n w : Nat) : (presentWord s n w).response = s.response := by simp only [presentWord]
@[simp] theorem presentWord_pending (s : State) (n w : Nat) : (presentWord s n w).pending = .command (BitVec.ofNat 32 (w % 2 ^ n)) :: s.pending := by simp only [presentWord]
@[simp] theorem presentWord_resets (s : State) (n w : Nat) : (presentWord s n w).resets = s.resets := by simp only [presentWord]

/-! ### `appendFields` and `buildFrame`: what packing leaves alone -/

@[simp] theorem appendFields_cfg (P : Params) (s : State) (b : ByteLayout) : (s.appendFields P b).cfg = s.cfg := by
  unfold State.appendFields
  induction b generalizing s with
  | nil => rfl
  | cons e es ih => rw [List.foldl_cons, ih, append_cfg]

@[simp] theorem foldl_appendFields_cfg (P : Params) (s : State) (l : List ByteLayout) :
    (l.foldl (State.appendFields P) s).cfg = s.cfg := by
  induction l generalizing s with
  | nil => rfl
  | cons b bs ih => rw [List.foldl_cons, ih, appendFields_cfg]

@[simp] theorem appendFields_symbols (P : Params) (s : State) (b : ByteLayout) : (s.appendFields P b).symbols = s.symbols := by
  unfold State.appendFields
  induction b generalizing s with
  | nil => rfl
  | cons e es ih => rw [List.foldl_cons, ih, append_symbols]

@[simp] theorem foldl_appendFields_symbols (P : Params) (s : State) (l : List ByteLayout) :
    (l.foldl (State.appendFields P) s).symbols = s.symbols := by
  induction l generalizing s with
  | nil => rfl
  | cons b bs ih => rw [List.foldl_cons, ih, appendFields_symbols]

@[simp] theorem appendFields_pulses (P : Params) (s : State) (b : ByteLayout) : (s.appendFields P b).pulses = s.pulses := by
  unfold State.appendFields
  induction b generalizing s with
  | nil => rfl
  | cons e es ih => rw [List.foldl_cons, ih, append_pulses]

@[simp] theorem foldl_appendFields_pulses (P : Params) (s : State) (l : List ByteLayout) :
    (l.foldl (State.appendFields P) s).pulses = s.pulses := by
  induction l generalizing s with
  | nil => rfl
  | cons b bs ih => rw [List.foldl_cons, ih, appendFields_pulses]

@[simp] theorem appendFields_sv (P : Params) (s : State) (b : ByteLayout) : (s.appendFields P b).sv = s.sv := by
  unfold State.appendFields
  induction b generalizing s with
  | nil => rfl
  | cons e es ih => rw [List.foldl_cons, ih, append_sv]

@[simp] theorem foldl_appendFields_sv (P : Params) (s : State) (l : List ByteLayout) :
    (l.foldl (State.appendFields P) s).sv = s.sv := by
  induction l generalizing s with
  | nil => rfl
  | cons b bs ih => rw [List.foldl_cons, ih, appendFields_sv]

@[simp] theorem appendFields_pv (P : Params) (s : State) (b : ByteLayout) : (s.appendFields P b).pv = s.pv := by
  unfold State.appendFields
  induction b generalizing s with
  | nil => rfl
  | cons e es ih => rw [List.foldl_cons, ih, append_pv]

@[simp] theorem foldl_appendFields_pv (P : Params) (s : State) (l : List ByteLayout) :
    (l.foldl (State.appendFields P) s).pv = s.pv := by
  induction l generalizing s with
  | nil => rfl
  | cons b bs ih => rw [List.foldl_cons, ih, appendFields_pv]

@[simp] theorem appendFields_lasterr (P : Params) (s : State) (b : ByteLayout) : (s.appendFields P b).lasterr = s.lasterr := by
  unfold State.appendFields
  induction b generalizing s with
  | nil => rfl
  | cons e es ih => rw [List.foldl_cons, ih, append_lasterr]

@[simp] theorem foldl_appendFields_lasterr (P : Params) (s : State) (l : List ByteLayout) :
    (l.foldl (State.appendFields P) s).lasterr = s.lasterr := by
  induction l generalizing s with
  | nil => rfl
  | cons b bs ih => rw [List.foldl_cons, ih, appendFields_lasterr]

@[simp] theorem appendFields_response (P : Params) (s : State) (b : ByteLayout) : (s.appendFields P b).response = s.response := by
  unfold State.appendFields
  induction b generalizing s with
  | nil => rfl
  | cons e es ih => rw [List.foldl_cons, ih, append_response]

@[simp] theorem foldl_appendFields_response (P : Params) (s : State) (l : List ByteLayout) :
    (l.foldl (State.appendFields P) s).response = s.response := by
  induction l generalizing s with
  | nil => rfl
  | cons b bs ih => rw [List.foldl_cons, ih, appendFields_response]

@[simp] theorem appendFields_pending (P : Params) (s : State) (b : ByteLayout) : (s.appendFields P b).pending = s.pending := by
  unfold State.appendFields
  induction b generalizing s with
  | nil => rfl
  | cons e es ih => rw [List.foldl_cons, ih, append_pending]

@[simp] theorem foldl_appendFields_pending (P : Params) (s : State) (l : List ByteLayout) :
    (l.foldl (State.appendFields P) s).pending = s.pending := by
  induction l generalizing s with
  | nil => rfl
  | cons b bs ih => rw [List.foldl_cons, ih, appendFields_pending]

@[simp] theorem appendFields_resets (P : Params) (s : State) (b : ByteLayout) : (s.appendFields P b).resets = s.resets := by
  unfold State.appendFields
  induction b generalizing s with
  | nil => rfl
  | cons e es ih => rw [List.foldl_cons, ih, append_resets]

@[simp] theorem foldl_appendFields_resets (P : Params) (s : State) (l : List ByteLayout) :
    (l.foldl (State.appendFields P) s).resets = s.resets := by
  induction l generalizing s with
  | nil => rfl
  | cons b bs ih => rw [List.foldl_cons, ih, appendFields_resets]

@[simp] theorem buildFrame_cfg (P : Params) (s : State) : (s.buildFrame P).cfg = s.cfg := by
  simp [State.buildFrame]

@[simp] theorem buildFrame_symbols (P : Params) (s : State) : (s.buildFrame P).symbols = s.symbols := by
  simp [State.buildFrame]

@[simp] theorem buildFrame_pulses (P : Params) (s : State) : (s.buildFrame P).pulses = s.pulses := by
  simp [State.buildFrame]

@[simp] theorem buildFrame_lasterr (P : Params) (s : State) : (s.buildFrame P).lasterr = s.lasterr := by
  simp [State.buildFrame]

@[simp] theorem buildFrame_response (P : Params) (s : State) : (s.buildFrame P).response = s.response := by
  simp [State.buildFrame]

@[simp] theorem buildFrame_pending (P : Params) (s : State) : (s.buildFrame P).pending = s.pending := by
  simp [State.buildFrame]

@[simp] theorem buildFrame_resets (P : Params) (s : State) : (s.buildFrame P).resets = s.resets := by
  simp [State.buildFrame]

@[simp] theorem buildFrame_sv (P : Params) (s : State) : (s.buildFrame P).sv = false := by
  simp [State.buildFrame]

@[simp] theorem buildFrame_pv (P : Params) (s : State) : (s.buildFrame P).pv = false := by
  simp [State.buildFrame]

end Sys2Proof.Machine
end

