-- ==== Sys2Proof/Laws/Bits.lean ====
section
/-! SUPPORT. The laws of the bit operations: `enc` (R90, R91), `bitsVal` (R12), `setBit`, `writeBits`, the append (R92) and the
frame bytes (R21). -/

namespace Sys2Proof.Machine

@[simp] theorem enc_length (v w : Nat) : (enc v w).length = w := by simp [enc]

@[simp] theorem enc_getElem (v w j : Nat) (h : j < (enc v w).length) : (enc v w)[j] = v.testBit j := by simp [enc]

theorem enc_getD (v w j : Nat) : (enc v w).getD j false = (decide (j < w) && v.testBit j) := by
  by_cases h : j < w <;> simp [enc, h, List.getD]

theorem enc_zero_width (v : Nat) : enc v 0 = [] := rfl

theorem enc_succ (v w : Nat) : enc v (w + 1) = v.testBit 0 :: enc (v / 2) w := by
  apply List.ext_getElem (by simp)
  intro j h1 h2
  cases j with
  | zero => simp
  | succ n => simp [Nat.testBit_succ]

theorem bitsVal_enc (v w : Nat) : bitsVal (enc v w) = v % 2 ^ w := by
  induction w generalizing v with
  | zero => simp [enc_zero_width, bitsVal, Nat.mod_one]
  | succ n ih =>
    rw [enc_succ, bitsVal, ih, Nat.pow_succ, Nat.mul_comm (2 ^ n) 2, Nat.mod_mul, Nat.testBit_zero]
    rcases Nat.mod_two_eq_zero_or_one v with h | h <;> simp [h]

theorem bitsVal_append (xs ys : BitString) : bitsVal (xs ++ ys) = bitsVal xs + 2 ^ xs.length * bitsVal ys := by
  induction xs with
  | nil => simp [bitsVal]
  | cons b bs ih => simp only [List.cons_append, bitsVal, ih, List.length_cons, Nat.pow_succ]; ring

theorem bitsVal_testBit (xs : BitString) (j : Nat) : (bitsVal xs).testBit j = xs.getD j false := by
  induction xs generalizing j with
  | nil => simp [bitsVal]
  | cons b bs ih =>
    have hb : b.toNat < 2 := Bool.toNat_lt b
    cases j with
    | zero => cases b <;> simp [bitsVal, Nat.testBit_zero]
    | succ n =>
      have h2 : (b.toNat + 2 * bitsVal bs) / 2 = bitsVal bs := by omega
      rw [bitsVal, Nat.testBit_succ, h2, ih]
      simp

theorem setBit_getLsbD (fb : FrameBits) (k j : Nat) (b : Bool) (hk : k < 72) :
    (setBit fb k b).getLsbD j = if j = k then b else fb.getLsbD j := by
  unfold setBit
  by_cases hj : j < 72
  · by_cases h : j = k
    · subst h; cases b <;> simp [hj]
    · cases b <;> simp [hj, h] <;> omega
  · have hne : j ≠ k := by omega
    rw [if_neg hne, BitVec.getLsbD_of_ge _ _ (by omega), BitVec.getLsbD_of_ge _ _ (by omega)]

theorem writeBits_getLsbD (bs : BitString) (fb : FrameBits) (at_ k : Nat) (h : at_ + bs.length ≤ 72) :
    (writeBits fb at_ bs).getLsbD k =
      if at_ ≤ k ∧ k < at_ + bs.length then bs.getD (k - at_) false else fb.getLsbD k := by
  induction bs generalizing fb at_ with
  | nil => rw [if_neg (by simp only [List.length_nil]; omega)]; rfl
  | cons b bs ih =>
    simp only [List.length_cons] at h ⊢
    rw [writeBits, ih _ _ (by omega)]
    by_cases hk : k = at_
    · subst hk
      rw [if_neg (by omega), setBit_getLsbD _ _ _ _ (by omega), if_pos rfl, if_pos (by omega)]
      simp
    · by_cases hin : at_ + 1 ≤ k ∧ k < at_ + 1 + bs.length
      · obtain ⟨n, hn⟩ : ∃ n, k - at_ = n + 1 := ⟨k - at_ - 1, by omega⟩
        have hn' : k - (at_ + 1) = n := by omega
        rw [if_pos hin, if_pos (by omega), hn, hn']
        simp
      · rw [if_neg hin, setBit_getLsbD _ _ _ _ (by omega), if_neg hk, if_neg (by omega)]

theorem writeBits_append (xs ys : BitString) (fb : FrameBits) (at_ : Nat) :
    writeBits fb at_ (xs ++ ys) = writeBits (writeBits fb at_ xs) (at_ + xs.length) ys := by
  induction xs generalizing fb at_ with
  | nil => simp [writeBits]
  | cons b bs ih =>
    rw [List.cons_append, writeBits, ih, writeBits, List.length_cons]
    congr 1
    omega

theorem append_blen_toNat (s : State) (w v : Nat) (h : s.blen.toNat + w ≤ 72) :
    (s.append w v).blen.toNat = s.blen.toNat + w := by
  rw [append_blen, BitVec.toNat_ofNat]
  omega

/-- The append at the bits of the frame (R92): the field's bits at `BLEN` onward, every other bit as before. -/
theorem append_fb_getLsbD (s : State) (w v k : Nat) (h : s.blen.toNat + w ≤ 72) :
    (s.append w v).fb.getLsbD k =
      if s.blen.toNat ≤ k ∧ k < s.blen.toNat + w then v.testBit (k - s.blen.toNat) else s.fb.getLsbD k := by
  rw [append_fb, writeBits_getLsbD _ _ _ _ (by simpa using h), enc_length]
  split
  · rw [enc_getD, decide_eq_true (by omega), Bool.true_and]
  · rfl

theorem frameByte_getLsbD (fb : FrameBits) (i j : Nat) :
    (frameByte fb i).getLsbD j = (decide (j < 8) && fb.getLsbD (8 * i + j)) := by
  simp [frameByte]

theorem frameByte_ext {fb gb : FrameBits} {i : Nat} (h : ∀ j < 8, fb.getLsbD (8 * i + j) = gb.getLsbD (8 * i + j)) :
    frameByte fb i = frameByte gb i := by
  apply BitVec.eq_of_getLsbD_eq
  intro j hj
  rw [frameByte_getLsbD, frameByte_getLsbD, h j hj]

@[simp] theorem byteString_length (v : Byte) : (byteString v).length = 8 := by simp [byteString]

theorem byteString_getD (v : Byte) (j : Nat) : (byteString v).getD j false = v.getLsbD j := by
  rw [byteString, enc_getD]
  by_cases h : j < 8
  · simp [h, BitVec.getLsbD]
  · simp [h, BitVec.getLsbD_of_ge v j (by omega)]

theorem bitsVal_byteString (v : Byte) : bitsVal (byteString v) = v.toNat := by
  rw [byteString, bitsVal_enc]
  have := v.isLt
  omega

end Sys2Proof.Machine
end

