-- ==== Sys2Proof/Laws/Builder.lean ====
section
/-! SUPPORT. What packing does (R105, R107): appending the fields of a list of byte layouts writes the concatenation of their
byte-strings, and under a well-formed configuration the built frame is `encode(P)` bit by bit. -/

namespace Sys2Proof.Machine

/-- The number of bits a byte layout packs. -/
def layoutBits (b : ByteLayout) : Nat := (b.map (·.width)).sum

theorem packByte_length (c : Config) (P : Params) (b : ByteLayout) : (packByte c P b).length = layoutBits b := by
  induction b with
  | nil => rfl
  | cons e es ih =>
    simp only [packByte, layoutBits, List.map_cons, List.flatten_cons, List.length_append, enc_length, List.sum_cons] at ih ⊢
    rw [ih]

/-- Appending the fields of one byte writes its byte-string and moves `BLEN` past it. -/
theorem appendFields_spec (P : Params) (b : ByteLayout) (s : State) (h : s.blen.toNat + layoutBits b ≤ 72) :
    (s.appendFields P b).fb = writeBits s.fb s.blen.toNat (packByte s.cfg P b)
      ∧ (s.appendFields P b).blen.toNat = s.blen.toNat + layoutBits b := by
  induction b generalizing s with
  | nil => exact ⟨rfl, rfl⟩
  | cons e es ih =>
    have hw : layoutBits (e :: es) = e.width + layoutBits es := by simp [layoutBits]
    rw [hw] at h ⊢
    have hb := append_blen_toNat s e.width (fieldVal s.cfg P e.source) (by omega)
    have hstep : s.appendFields P (e :: es) = (s.append e.width (fieldVal s.cfg P e.source)).appendFields P es := rfl
    obtain ⟨h1, h2⟩ := ih (s.append e.width (fieldVal s.cfg P e.source)) (by omega)
    rw [hstep]
    refine ⟨?_, by omega⟩
    rw [h1, hb, append_fb, append_cfg]
    simp only [packByte, List.map_cons, List.flatten_cons, writeBits_append, enc_length]

/-- Appending the fields of several bytes writes their byte-strings one after another. -/
theorem foldl_appendFields_spec (P : Params) (l : List ByteLayout) (s : State)
    (h : s.blen.toNat + (l.map layoutBits).sum ≤ 72) :
    (l.foldl (State.appendFields P) s).fb = writeBits s.fb s.blen.toNat (l.map (packByte s.cfg P)).flatten
      ∧ (l.foldl (State.appendFields P) s).blen.toNat = s.blen.toNat + (l.map layoutBits).sum := by
  induction l generalizing s with
  | nil => exact ⟨rfl, rfl⟩
  | cons b bs ih =>
    simp only [List.map_cons, List.sum_cons] at h ⊢
    obtain ⟨g1, g2⟩ := appendFields_spec P b s (by omega)
    obtain ⟨h1, h2⟩ := ih (s.appendFields P b) (by omega)
    rw [List.foldl_cons]
    refine ⟨?_, by omega⟩
    rw [h1, g1, g2, appendFields_cfg, List.flatten_cons, writeBits_append, packByte_length]

/-- In a well-formed configuration every byte packs exactly 8 bits (R10 (b)). -/
theorem layoutBits_of_wf {c : Config} (h : c.wf = true) : ∀ b ∈ c.layout, layoutBits b = 8 := by
  simp only [Config.wf, Bool.and_eq_true, List.all_eq_true] at h
  intro b hb
  have := h.1.1.1.2 b hb
  simp only [ByteLayout.widthsOk, Bool.and_eq_true, decide_eq_true_eq] at this
  exact this.2

theorem layout_length_of_wf {c : Config} (h : c.wf = true) : c.layout.length = 8 := by
  simp only [Config.wf, Bool.and_eq_true, Config.layoutHasEightBytes, decide_eq_true_eq] at h
  exact h.1.1.1.1

theorem sum_eq_of_all_eight (l : List ByteLayout) (h : ∀ b ∈ l, layoutBits b = 8) :
    (l.map layoutBits).sum = 8 * l.length := by
  induction l with
  | nil => rfl
  | cons b bs ih =>
    rw [List.map_cons, List.sum_cons, h b (by simp), ih (fun x hx => h x (by simp [hx])), List.length_cons]
    omega

/-- A list of byte-strings of 8 characters, flattened: character `8*i + j` is character `j` of byte-string `i`. -/
theorem flatten_getD_of_eights (l : List BitString) (h : ∀ b ∈ l, b.length = 8) (k : Nat) :
    l.flatten.getD k false = (l.getD (k / 8) []).getD (k % 8) false := by
  induction l generalizing k with
  | nil => simp
  | cons b bs ih =>
    have hb : b.length = 8 := h b (by simp)
    by_cases hk : k < 8
    · have h0 : k / 8 = 0 := by omega
      have h1 : k % 8 = k := by omega
      rw [List.flatten_cons, h0, h1]
      simp [List.getD, List.getElem?_append, hb, hk]
    · obtain ⟨m, rfl⟩ : ∃ m, k = m + 8 := ⟨k - 8, by omega⟩
      have h0 : (m + 8) / 8 = m / 8 + 1 := by omega
      have h1 : (m + 8) % 8 = m % 8 := by omega
      rw [List.flatten_cons, h0, h1, List.getD_cons_succ, ← ih (fun x hx => h x (by simp [hx]))]
      simp [List.getD, List.getElem?_append, hb]

theorem flatten_length_of_eights (l : List BitString) (h : ∀ b ∈ l, b.length = 8) : l.flatten.length = 8 * l.length := by
  induction l with
  | nil => rfl
  | cons b bs ih =>
    rw [List.flatten_cons, List.length_append, h b (by simp), ih (fun x hx => h x (by simp [hx])), List.length_cons]
    omega

theorem frame07_length {c : Config} (h : c.wf = true) (P : Params) : (frame07 c P).length = 8 := by
  rw [frame07, List.length_map, layout_length_of_wf h]

theorem frame07_bytes {c : Config} (h : c.wf = true) (P : Params) : ∀ b ∈ frame07 c P, b.length = 8 := by
  intro b hb
  obtain ⟨l, hl, rfl⟩ := List.mem_map.1 hb
  rw [packByte_length, layoutBits_of_wf h l hl]

/-- The state in which bytes 0 to 7 are packed and the checksum is not: `BLEN = 64`, and frame bit `8*i + j` is character `j` of
byte-string `i` of `frame07` (R105). -/
theorem packed_spec {s : State} (h : s.cfg.wf = true) (P : Params) :
    (s.cfg.layout.foldl (State.appendFields P) s.clearFrame).blen.toNat = 64
      ∧ ∀ k < 64, (s.cfg.layout.foldl (State.appendFields P) s.clearFrame).fb.getLsbD k
        = ((frame07 s.cfg P).getD (k / 8) []).getD (k % 8) false := by
  have hsum : (s.cfg.layout.map layoutBits).sum = 64 := by
    rw [sum_eq_of_all_eight _ (layoutBits_of_wf h), layout_length_of_wf h]
  have hlen := flatten_length_of_eights _ (frame07_bytes h P)
  rw [frame07_length h] at hlen
  have h0 : s.clearFrame.blen.toNat = 0 := rfl
  obtain ⟨h1, h2⟩ := foldl_appendFields_spec P s.cfg.layout s.clearFrame (by omega)
  refine ⟨by omega, fun k hk => ?_⟩
  rw [h1, h0, clearFrame_cfg, clearFrame_fb]
  change (writeBits 0 0 (frame07 s.cfg P).flatten).getLsbD k = _
  rw [writeBits_getLsbD _ _ _ _ (by omega), if_pos (by omega), Nat.sub_zero,
    flatten_getD_of_eights _ (frame07_bytes h P)]

/-- What appending the checksum byte does when bytes 0 to 7 are written (R122): bits 64..67 are 0, bits 68..71 are the
checksum, and the rest of the frame is as before. -/
theorem appendChecksum_spec {s : State} (h : s.blen.toNat = 64) :
    s.appendChecksum.blen.toNat = 72
      ∧ ∀ k, s.appendChecksum.fb.getLsbD k =
        if k < 64 then s.fb.getLsbD k
        else if k < 68 then false
        else decide (k < 72) && (frameChecksum s.cfg.consts s.fb).testBit (k - 68) := by
  have hb := append_blen_toNat s 4 0 (by omega)
  refine ⟨by rw [State.appendChecksum, append_blen_toNat _ _ _ (by omega)]; omega, fun k => ?_⟩
  rw [State.appendChecksum, append_fb_getLsbD _ _ _ _ (by omega), append_fb_getLsbD _ _ _ _ (by omega), hb, h]
  by_cases h1 : k < 64
  · rw [if_neg (by omega), if_neg (by omega), if_pos h1]
  · by_cases h2 : k < 68
    · rw [if_neg (by omega), if_pos (by omega), if_neg h1, if_pos h2, Nat.zero_testBit]
    · by_cases h3 : k < 72
      · rw [if_pos (by omega), if_neg h1, if_neg h2, decide_eq_true h3, Bool.true_and]
      · rw [if_neg (by omega), if_neg (by omega), if_neg h1, if_neg h2, decide_eq_false h3, Bool.false_and,
          BitVec.getLsbD_of_ge _ _ (by omega)]

theorem checksum_lt (b v0 v1 v2 v3 v4 v5 v6 v7 : Nat) : checksum b v0 v1 v2 v3 v4 v5 v6 v7 < 16 :=
  Nat.mod_lt _ (by decide)

/-- Byte-string `i` of `frame07` is byte `i` of a frame whose first 64 bits it spells. -/
theorem frameByte_of_strings {fb : FrameBits} {l : List BitString} (hl : ∀ b ∈ l, b.length = 8) (hn : l.length = 8)
    (h : ∀ k < 64, fb.getLsbD k = (l.getD (k / 8) []).getD (k % 8) false) (i : Nat) (hi : i < 8) :
    byteString (frameByte fb i) = l.getD i [] := by
  have hg : l.getD i [] = l[i] := by simp [List.getD, hn, hi]
  have hlen : (l.getD i []).length = 8 := by rw [hg]; exact hl _ (List.getElem_mem _)
  apply List.ext_getElem (by rw [byteString_length, hlen])
  intro j h1 h2
  have h8 : j < 8 := by rwa [byteString_length] at h1
  have d0 : (8 * i + j) / 8 = i := by omega
  have d1 : (8 * i + j) % 8 = j := by omega
  rw [← List.getD_eq_getElem _ false h1, ← List.getD_eq_getElem _ false h2, byteString_getD, frameByte_getLsbD,
    decide_eq_true h8, Bool.true_and, h _ (by omega), d0, d1]

end Sys2Proof.Machine
end

