-- ==== Sys2Proof/Laws/Cases.lean ====
section
/-! SUPPORT. What a command can do, said once: it succeeds with its own effect, it faults and changes only LASTERR (R171), or it
is `BUILD` or `ENCODE` and rejects (R172). And what a step can do around it. -/

namespace Sys2Proof.Machine

theorem withConfig_of_wf {s : State} (h : s.cfg.wf = true) (k : StepResult) : withConfig s k = k := by
  simp [withConfig, h]

theorem withConfig_of_not_wf {s : State} (h : s.cfg.wf = false) (k : StepResult) :
    withConfig s k = .refused .illFormedConfig := by
  simp [withConfig, h]

theorem wf_of_withConfig_next {s t : State} {k : StepResult} (h : withConfig s k = .next t) :
    s.cfg.wf = true ∧ k = .next t := by
  by_cases hw : s.cfg.wf = true
  · exact ⟨hw, by rwa [withConfig_of_wf hw] at h⟩
  · rw [withConfig_of_not_wf (by simpa using hw)] at h
    cases h

/-- Tags that name no mode (R69). -/
theorem modeOfTag_eq_none (t : BitVec 3) : Mode.ofTag t = none ↔ 5 ≤ t.toNat := by
  revert t; decide

/-- Tags that name no vertical vane position (R69). -/
theorem vvaneOfTag_eq_none (t : BitVec 4) : VVane.ofTag t = none ↔ 9 ≤ t.toNat := by
  revert t; decide

theorem decodeParams_eq_none (p : ParamWord) : decodeParams p = none ↔ 5 ≤ p.mode.toNat ∨ 9 ≤ p.vv.toNat := by
  rw [← modeOfTag_eq_none, ← vvaneOfTag_eq_none, decodeParams]
  cases Mode.ofTag p.mode <;> cases VVane.ofTag p.vv <;> simp

theorem decodeParams_temp {p : ParamWord} {P : Params} (h : decodeParams p = some P) : P.temp = p.temp.toNat := by
  rw [decodeParams] at h
  split at h
  · cases h; rfl
  · cases h

theorem tempField_eq_none (k : Constants) (P : Params) :
    tempField k P = none ↔ ¬ (k.tempMin ≤ P.temp ∧ P.temp ≤ k.tempMax) := by
  unfold tempField
  split <;> rename_i h <;> simp <;> omega

theorem tempField_of_legal {k : Constants} {P : Params} (h : k.tempMin ≤ P.temp ∧ P.temp ≤ k.tempMax) :
    tempField k P = some (P.temp - k.tempBias) := by
  unfold tempField
  rw [if_neg (by omega)]

/-- The three ways the checks of `BUILD` and `ENCODE` end (R170). -/
theorem withParams_cases (p : ParamWord) (s : State) (k : Params → StepResult) :
    ((5 ≤ p.mode.toNat ∨ 9 ≤ p.vv.toNat) ∧ withParams p s k = reject .illegalParam s)
    ∨ (¬ (5 ≤ p.mode.toNat ∨ 9 ≤ p.vv.toNat)
        ∧ ¬ (s.cfg.consts.tempMin ≤ p.temp.toNat ∧ p.temp.toNat ≤ s.cfg.consts.tempMax)
        ∧ withParams p s k = reject .rangeError s)
    ∨ (¬ (5 ≤ p.mode.toNat ∨ 9 ≤ p.vv.toNat)
        ∧ (s.cfg.consts.tempMin ≤ p.temp.toNat ∧ p.temp.toNat ≤ s.cfg.consts.tempMax)
        ∧ ∃ P, decodeParams p = some P ∧ tempField s.cfg.consts P = some (P.temp - s.cfg.consts.tempBias)
          ∧ withParams p s k = k P) := by
  cases hP : decodeParams p with
  | none => exact .inl ⟨(decodeParams_eq_none p).1 hP, by simp only [withParams, hP]⟩
  | some P =>
    have hn : ¬ (5 ≤ p.mode.toNat ∨ 9 ≤ p.vv.toNat) := by
      rw [← decodeParams_eq_none, hP]; simp
    have ht := decodeParams_temp hP
    by_cases hT : s.cfg.consts.tempMin ≤ P.temp ∧ P.temp ≤ s.cfg.consts.tempMax
    · have hf := tempField_of_legal hT
      exact .inr (.inr ⟨hn, ht ▸ hT, P, rfl, hf, by simp only [withParams, hP, hf]⟩)
    · have hf := (tempField_eq_none s.cfg.consts P).2 hT
      exact .inr (.inl ⟨hn, ht ▸ hT, by simp only [withParams, hP, hf]⟩)

/-- The effect of a command that succeeds, command by command. -/
def Succeeds (s t : State) : Instr → Prop
  | .nop => t = s.respond .ok 0
  | .clrb => t = s.clearFrame.respond .ok 0
  | .put w v => (1 ≤ w.toNat ∧ w.toNat ≤ 8 ∧ s.blen.toNat + w.toNat ≤ 72)
      ∧ t = (s.append w.toNat v.toNat).clearValid.respond .ok 0
  | .csum => s.blen.toNat = 64 ∧ t = s.appendChecksum.clearValid.respond .ok 0
  | .build p => ∃ P, decodeParams p = some P ∧ tempField s.cfg.consts P = some (P.temp - s.cfg.consts.tempBias)
      ∧ t = (s.buildFrame P).respond .ok 0
  | .sym => s.blen.toNat = 72 ∧ t = s.makeSymbols.respond .ok 0
  | .pulse => s.sv = true ∧ t = s.makePulses.respond .ok 0
  | .encode p => ∃ P, decodeParams p = some P ∧ tempField s.cfg.consts P = some (P.temp - s.cfg.consts.tempBias)
      ∧ t = (s.buildFrame P).makeSymbols.makePulses.respond .ok 0
  | .rdf i => (i.toNat ≤ 8 ∧ 8 * i.toNat + 8 ≤ s.blen.toNat)
      ∧ t = s.respond .ok ((frameByte s.fb i.toNat).setWidth 16)
  | .rds i => ∃ h : i.toNat ≤ 67, s.sv = true ∧ t = s.respond .ok ((symbolBits s.symbols[i.toNat]).setWidth 16)
  | .rdp i => ∃ h : i.toNat ≤ 139, s.pv = true ∧ t = s.respond .ok s.pulses[i.toNat]
  | .rdst => t = s.respondUnrecorded s.statusWord

/-- The codes of the faults with the default effect (R171). -/
abbrev DefaultFault (c : RespCode) : Prop :=
  c = .illegalCommand ∨ c = .bufferOverflow ∨ c = .badFrameLength ∨ c = .notValid

/-- The codes of the rejections (R172). -/
abbrev Rejection (c : RespCode) : Prop := c = .rangeError ∨ c = .illegalParam

/-- How a command that gave a next state ended. -/
inductive Ended (s t : State) (i : Instr) : Prop where
  | success (h : Succeeds s t i)
  | faulted (c : RespCode) (hc : DefaultFault c) (hi : i ≠ .rdst) (ht : t = s.respond c 0)
  | rejection (c : RespCode) (hc : Rejection c) (p : ParamWord) (hi : i = .build p ∨ i = .encode p)
      (ht : t = s.clearFrame.respond c 0)

/-- What a command can do. -/
theorem exec_cases {i : Instr} {s t : State} (h : exec i s = .next t) : s.cfg.wf = true ∧ Ended s t i := by
  cases i with
  | nop => obtain ⟨hw, hk⟩ := wf_of_withConfig_next h; cases hk; exact ⟨hw, .success rfl⟩
  | clrb => obtain ⟨hw, hk⟩ := wf_of_withConfig_next h; cases hk; exact ⟨hw, .success rfl⟩
  | rdst => obtain ⟨hw, hk⟩ := wf_of_withConfig_next h; cases hk; exact ⟨hw, .success rfl⟩
  | put w v =>
    obtain ⟨hw, hk⟩ := wf_of_withConfig_next h
    refine ⟨hw, ?_⟩
    split at hk
    · cases hk; exact .faulted _ (.inl rfl) (by simp) rfl
    · split at hk
      · cases hk; exact .faulted _ (.inr (.inl rfl)) (by simp) rfl
      · cases hk; exact .success ⟨by omega, rfl⟩
  | csum =>
    obtain ⟨hw, hk⟩ := wf_of_withConfig_next h
    refine ⟨hw, ?_⟩
    split at hk
    · cases hk; exact .faulted _ (.inr (.inr (.inl rfl))) (by simp) rfl
    · cases hk; exact .success ⟨by omega, rfl⟩
  | build p =>
    obtain ⟨hw, hk⟩ := wf_of_withConfig_next h
    refine ⟨hw, ?_⟩
    rcases withParams_cases p s (fun P => succeed (s.buildFrame P) 0) with ⟨_, e⟩ | ⟨_, _, e⟩ | ⟨_, _, P, hP, hT, e⟩
    all_goals rw [e] at hk; cases hk
    · exact .rejection _ (.inr rfl) p (.inl rfl) rfl
    · exact .rejection _ (.inl rfl) p (.inl rfl) rfl
    · exact .success ⟨P, hP, hT, rfl⟩
  | encode p =>
    obtain ⟨hw, hk⟩ := wf_of_withConfig_next h
    refine ⟨hw, ?_⟩
    rcases withParams_cases p s (fun P => succeed (s.buildFrame P).makeSymbols.makePulses 0) with
      ⟨_, e⟩ | ⟨_, _, e⟩ | ⟨_, _, P, hP, hT, e⟩
    all_goals rw [e] at hk; cases hk
    · exact .rejection _ (.inr rfl) p (.inr rfl) rfl
    · exact .rejection _ (.inl rfl) p (.inr rfl) rfl
    · exact .success ⟨P, hP, hT, rfl⟩
  | sym =>
    obtain ⟨hw, hk⟩ := wf_of_withConfig_next h
    refine ⟨hw, ?_⟩
    split at hk
    · cases hk; exact .faulted _ (.inr (.inr (.inl rfl))) (by simp) rfl
    · cases hk; exact .success ⟨by omega, rfl⟩
  | pulse =>
    obtain ⟨hw, hk⟩ := wf_of_withConfig_next h
    refine ⟨hw, ?_⟩
    split at hk
    · cases hk; exact .success ⟨by assumption, rfl⟩
    · cases hk; exact .faulted _ (.inr (.inr (.inr rfl))) (by simp) rfl
  | rdf j =>
    obtain ⟨hw, hk⟩ := wf_of_withConfig_next h
    refine ⟨hw, ?_⟩
    split at hk
    · cases hk; exact .faulted _ (.inl rfl) (by simp) rfl
    · split at hk
      · cases hk; exact .faulted _ (.inr (.inr (.inr rfl))) (by simp) rfl
      · cases hk; exact .success ⟨by omega, rfl⟩
  | rds j =>
    obtain ⟨hw, hk⟩ := wf_of_withConfig_next h
    refine ⟨hw, ?_⟩
    split at hk
    · rename_i hj
      split at hk
      · cases hk; exact .success ⟨hj, by assumption, rfl⟩
      · cases hk; exact .faulted _ (.inr (.inr (.inr rfl))) (by simp) rfl
    · cases hk; exact .faulted _ (.inl rfl) (by simp) rfl
  | rdp j =>
    obtain ⟨hw, hk⟩ := wf_of_withConfig_next h
    refine ⟨hw, ?_⟩
    split at hk
    · rename_i hj
      split at hk
      · cases hk; exact .success ⟨hj, by assumption, rfl⟩
      · cases hk; exact .faulted _ (.inr (.inr (.inr rfl))) (by simp) rfl
    · cases hk; exact .faulted _ (.inl rfl) (by simp) rfl

/-- What a step can do: hold the state, run a command, take `IllegalCommand` on a malformed word, or be reset. -/
theorem step_cases {s t : State} (h : step s = .next t) :
    s.cfg.wf = true ∧
    ((s.pending = [] ∧ t = s)
    ∨ (∃ w rest i, s.pending = .command w :: rest ∧ decode w = .command i ∧ exec i { s with pending := rest } = .next t)
    ∨ (∃ w rest why, s.pending = .command w :: rest ∧ decode w = .malformed why
        ∧ t = State.respond { s with pending := rest } .illegalCommand 0)
    ∨ (∃ e rest, s.pending = e :: rest ∧ (e = .reset ∨ ∃ w, e = .commandCutOff w)
        ∧ t = resetBlock { s with pending := rest })) := by
  obtain ⟨hw, hk⟩ := wf_of_withConfig_next h
  refine ⟨hw, ?_⟩
  unfold fetch at hk
  cases hp : s.pending with
  | nil => rw [hp] at hk; cases hk; exact .inl ⟨rfl, rfl⟩
  | cons e rest =>
    rw [hp] at hk
    cases e with
    | command w =>
      simp only [fetchWord] at hk
      cases hd : decode w with
      | command i => rw [hd] at hk; exact .inr (.inl ⟨w, rest, i, rfl, hd, hk⟩)
      | malformed why =>
        rw [hd] at hk
        obtain ⟨_, hm⟩ := wf_of_withConfig_next hk
        cases hm
        exact .inr (.inr (.inl ⟨w, rest, why, rfl, hd, rfl⟩))
    | reset => cases hk; exact .inr (.inr (.inr ⟨_, rest, rfl, .inl rfl, rfl⟩))
    | commandCutOff w => cases hk; exact .inr (.inr (.inr ⟨_, rest, rfl, .inr ⟨w, rfl⟩, rfl⟩))

/-- No command and no event that runs none ends in a fault: the block never stops (R160). -/
theorem step_ne_fault (s : State) (f : Fault) : step s ≠ .fault f := by
  cases f

end Sys2Proof.Machine
end

