-- ==== Sys2Proof/Laws/PerInstr.lean ====
section
/-! SUPPORT. The family MatchMask: the word of every command lies in the row of its own mnemonic (R62, R63). -/

namespace Sys2Proof.Laws.MatchMask

/-- The encoded command matches its row's `match` under its row's `mask`. -/
def Statement (i : Instr) : Prop := i.row.selects (encode i)

theorem nop : Statement .nop := by simp only [Statement, TableRow.selects]; decide
theorem clrb : Statement .clrb := by simp only [Statement, TableRow.selects]; decide
theorem csum : Statement .csum := by simp only [Statement, TableRow.selects]; decide
theorem sym : Statement .sym := by simp only [Statement, TableRow.selects]; decide
theorem pulse : Statement .pulse := by simp only [Statement, TableRow.selects]; decide
theorem rdst : Statement .rdst := by simp only [Statement, TableRow.selects]; decide

/-- A word split at its low `n` bits: the fixed high part under a mask of ones, the operand part under a mask of zeros. -/
theorem and_split {n m : Nat} (hi hm : BitVec m) (lo : BitVec n) :
    (hi ++ lo) &&& (hm ++ 0#n) = (hi &&& hm) ++ 0#n := by
  apply BitVec.eq_of_getLsbD_eq
  intro j hj
  simp only [BitVec.getLsbD_and, BitVec.getLsbD_append, BitVec.getLsbD_zero]
  split <;> simp

theorem rdf (i : Byte) : Statement (.rdf i) := and_split (0x8#4 ++ 0#20) (BitVec.allOnes 24) i
theorem rds (i : Byte) : Statement (.rds i) := and_split (0x9#4 ++ 0#20) (BitVec.allOnes 24) i
theorem rdp (i : Byte) : Statement (.rdp i) := and_split (0xA#4 ++ 0#20) (BitVec.allOnes 24) i
theorem build (p : ParamWord) : Statement (.build p) := and_split (0x4#4 ++ 0#7) (BitVec.allOnes 11) p.bits
theorem encode (p : ParamWord) : Statement (.encode p) := and_split (0x7#4 ++ 0#7) (BitVec.allOnes 11) p.bits

theorem put (w : BitVec 4) (v : Byte) : Statement (.put w v) := by
  have h : ∀ w : BitVec 4, (0x2#4 ++ w ++ 0#16) &&& 0xF0FFFF#24 = 0x200000#24 := by decide
  have := and_split (0x2#4 ++ w ++ 0#16) 0xF0FFFF#24 v
  rw [h] at this
  exact this

end Sys2Proof.Laws.MatchMask
end

