-- ==== Sys2Proof/Laws/SymbolPulse.lean ====
section
/-! SUPPORT. The entries of the symbol string (R130) and of the pulse buffer (R134), index by index. -/

namespace Sys2Proof.Machine

theorem symbolsOf_low (fb : FrameBits) (k : Nat) (h : k < 35) : (symbolsOf fb)[k] = bitSymbol (fb.getLsbD k) := by
  simp [symbolsOf, h]

theorem symbolsOf_gap (fb : FrameBits) : (symbolsOf fb)[35] = .gap := by
  simp [symbolsOf]

theorem symbolsOf_high (fb : FrameBits) (k : Nat) (h1 : 36 ≤ k) (h2 : k < 68) :
    (symbolsOf fb)[k] = bitSymbol (fb.getLsbD (k + 4)) := by
  have : ¬ k < 35 := by omega
  have : ¬ k = 35 := by omega
  simp [symbolsOf, *]

theorem bitSymbol_ne_gap (b : Bool) : bitSymbol b ≠ .gap := by
  cases b <;> decide

theorem symbolBits_bitSymbol (b : Bool) : (symbolBits (bitSymbol b)).toNat = b.toNat := by
  cases b <;> rfl

/-- Exactly one symbol is the gap (R131). -/
theorem symbolsOf_eq_gap_iff (fb : FrameBits) (k : Nat) (h : k < 68) : (symbolsOf fb)[k] = .gap ↔ k = 35 := by
  rcases Nat.lt_trichotomy k 35 with hk | hk | hk
  · rw [symbolsOf_low fb k hk]
    exact ⟨fun e => absurd e (bitSymbol_ne_gap _), fun e => by omega⟩
  · subst hk; simp [symbolsOf_gap]
  · rw [symbolsOf_high fb k (by omega) h]
    exact ⟨fun e => absurd e (bitSymbol_ne_gap _), fun e => by omega⟩

theorem pulsesOf_zero (k : Constants) (s : Vector Symbol 68) : (pulsesOf k s)[0] = micros k.hdrMark := by
  simp [pulsesOf]

theorem pulsesOf_one (k : Constants) (s : Vector Symbol 68) : (pulsesOf k s)[1] = micros k.hdrSpace := by
  simp [pulsesOf]

theorem pulsesOf_mark (k : Constants) (s : Vector Symbol 68) (j : Nat) (h : j < 68) :
    (pulsesOf k s)[2 + 2 * j] = micros k.bitMark := by
  have h1 : ¬ 2 + 2 * j = 1 := by omega
  have h2 : 2 + 2 * j < 138 := by omega
  simp [pulsesOf, h1, h2]

theorem pulsesOf_space (k : Constants) (s : Vector Symbol 68) (j : Nat) (h : j < 68) :
    (pulsesOf k s)[3 + 2 * j] = micros (gap k s[j]) := by
  have h1 : ¬ 3 + 2 * j = 1 := by omega
  have h2 : 3 + 2 * j < 138 := by omega
  have h4 : (3 + 2 * j - 2) / 2 = j := by omega
  simp [pulsesOf, h1, h2, h4]

theorem pulsesOf_trailMark (k : Constants) (s : Vector Symbol 68) : (pulsesOf k s)[138] = micros k.trailMark := by
  simp [pulsesOf]

theorem pulsesOf_trailSpace (k : Constants) (s : Vector Symbol 68) : (pulsesOf k s)[139] = micros k.trailSpace := by
  simp [pulsesOf]

theorem micros_toNat {n : Nat} (h : n < 65536) : (micros n).toNat = n := by
  rw [micros, BitVec.toNat_ofNat]
  omega

/-- The durations of a well-formed configuration fit a pulse word (D28). -/
theorem durations_of_wf {c : Config} (h : c.wf = true) : ∀ d ∈ c.consts.durations, d < 65536 := by
  simp only [Config.wf, Constants.ok, Bool.and_eq_true, List.all_eq_true, decide_eq_true_eq] at h
  exact h.2.1

theorem gap_mem_durations (k : Constants) (s : Symbol) : gap k s ∈ k.durations := by
  cases s <;> simp [gap, Constants.durations]

end Sys2Proof.Machine
end

