-- ==== Sys2Proof/Tests/Slice0.lean ====
section
/-! SUPPORT. The model's own tests: ill-formed terms refused, words written out from R62, one step each with the expected values of
95_test_vectors.md (cited as V<n>, S<n>, P<n>) or of the rules' own examples, and for every statement with hypotheses a
named theorem showing that concrete values meet them. -/

open Sys2Proof Sys2Proof.Machine

namespace Sys2Proof.Tests

/-! ## Helpers -/

/-- The next state of an outcome, a given state where there is none. -/
def nextOr (s : State) : StepResult → State
  | .next t => t
  | .fault _ => s
  | .refused _ => s

/-- Whether an outcome is a next state with a property. -/
def nextIs (p : State → Bool) : StepResult → Bool
  | .next t => p t
  | .fault _ => false
  | .refused _ => false

/-- The state after a command. -/
def after (i : Instr) (s : State) : State := nextOr s (exec i s)

/-- The reset state with one command word issued. -/
def withWord (w : Word) : State := { State.reset with pending := [.command w] }

/-- A response of a next state. -/
def answers (code : RespCode) (data : BitVec 16) (o : StepResult) : Bool :=
  nextIs (fun t => decide (t.response = some ⟨code, data⟩)) o

/-- A frame buffer of given length, all other state as after reset. -/
def lengthIs (n : BitVec 7) : State := { State.reset with blen := n }

/-- The parameters of V30. -/
def pV30 : ParamWord := assembleParams .auto true .auto 25 .auto .auto

/-- The state after the `ENCODE` of V30. -/
def ready : State := after (.encode pV30) State.reset

/-- A next state with a decidable property, from an evaluation. -/
theorem exists_next (p : State → Prop) [DecidablePred p] {o : StepResult} (h : nextIs (fun t => decide (p t)) o = true) :
    ∃ t, o = .next t ∧ p t := by
  cases o with
  | next t => exact ⟨t, rfl, of_decide_eq_true h⟩
  | fault r => cases h
  | refused r => cases h

/-! ## Ill-formed terms are refused -/

theorem test_wf_put_width_zero : (Instr.put 0 0).wf = false := by decide
theorem test_wf_put_width_nine : (Instr.put 9 0).wf = false := by decide
theorem test_wf_rdf_nine : (Instr.rdf 9).wf = false := by decide
theorem test_wf_rds_68 : (Instr.rds 68).wf = false := by decide
theorem test_wf_rdp_140 : (Instr.rdp 140).wf = false := by decide

theorem test_config_wf : Config.irfb.wf = true := by decide
theorem test_config_seven_bytes : ({ Config.irfb with layout := layoutDefault.take 7 } : Config).wf = false := by decide
theorem test_config_width_zero :
    ({ Config.irfb with layout := layoutDefault.set 7 [⟨.const 0, 8⟩, ⟨.const 0, 0⟩] } : Config).wf = false := by decide
theorem test_config_width_nine :
    ({ Config.irfb with layout := layoutDefault.set 7 [⟨.const 0, 9⟩] } : Config).wf = false := by decide
theorem test_config_widths_not_eight :
    ({ Config.irfb with layout := layoutDefault.set 7 [⟨.const 0, 4⟩] } : Config).wf = false := by decide
theorem test_config_code_16 :
    ({ Config.irfb with codeVV := { VVaneCodes.placeholder with swingHigh := 16 } } : Config).wf = false := by decide
theorem test_config_code_does_not_fit :
    ({ Config.irfb with codeMode := { ModeCodes.default with heat := 8 } } : Config).wf = false := by decide
theorem test_config_const_256 :
    ({ Config.irfb with layout := layoutDefault.set 7 [⟨.const 256, 8⟩] } : Config).wf = false := by decide
theorem test_config_long_duration :
    ({ Config.irfb with consts := { Constants.source with gapSpace := 65536 } } : Config).wf = false := by decide
theorem test_config_bias_above_min :
    ({ Config.irfb with consts := { Constants.source with tempBias := 17 } } : Config).wf = false := by decide

/-! ## Words written out from R62 -/

theorem test_decode_nop : decode 0b0000_0000_0000_0000_0000_0000_0000_0000 = .command .nop := by decide
theorem test_decode_clrb : decode 0b0001_0000_0000_0000_0000_0000_0000_0000 = .command .clrb := by decide
/-- P2 line 2: `PUT 3, 1`. -/
theorem test_decode_put : decode 0b0010_0011_0000_0000_0000_0000_0000_0001 = .command (.put 3 1) := by decide
theorem test_decode_csum : decode 0b0011_0000_0000_0000_0000_0000_0000_0000 = .command .csum := by decide
/-- P4 line 1. -/
theorem test_decode_build : decode 0b0100_0000_0000_0000_0000_1000_0001_1110
    = .command (.build (assembleParams .auto true .auto 30 .auto .auto)) := by decide
theorem test_decode_sym : decode 0b0101_0000_0000_0000_0000_0000_0000_0000 = .command .sym := by decide
theorem test_decode_pulse : decode 0b0110_0000_0000_0000_0000_0000_0000_0000 = .command .pulse := by decide
/-- V31: `0x70197910`. -/
theorem test_decode_encode : decode 0b0111_0000_0001_1001_0111_1001_0001_0000
    = .command (.encode (assembleParams .cool true .high 16 .swingAll .swingAll)) := by decide
theorem test_decode_rdf : decode 0b1000_0000_0000_0000_0000_0000_0000_1000 = .command (.rdf 8) := by decide
/-- P1 line 5: `RDS 35`. -/
theorem test_decode_rds : decode 0b1001_0000_0000_0000_0000_0000_0010_0011 = .command (.rds 35) := by decide
theorem test_decode_rdp : decode 0b1010_0000_0000_0000_0000_0000_1000_1011 = .command (.rdp 139) := by decide
theorem test_decode_rdst : decode 0b1011_0000_0000_0000_0000_0000_0000_0000 = .command .rdst := by decide

/-- V36. -/
theorem test_decode_reserved_opcode : decode 0xC0000000 = .malformed .reservedOpcode := by decide
/-- V37. -/
theorem test_decode_nop_reserved_bit : decode 0x00000001 = .malformed .reservedBits := by decide
/-- V43. -/
theorem test_decode_encode_reserved_pw : decode 0x70E00819 = .malformed .reservedBits := by decide
/-- V44. -/
theorem test_decode_encode_reserved_a : decode 0x71000819 = .malformed .reservedBits := by decide
/-- V38. -/
theorem test_decode_put_width_zero : decode 0x20000000 = .malformed .operandRange := by decide
/-- V42. -/
theorem test_decode_rdp_140 : decode 0xA000008C = .malformed .operandRange := by decide
/-- R80's example. -/
theorem test_encode_example : encode (.encode pV30) = 0x70000819 := by decide
/-- V33. -/
theorem test_encode_v33 : encode (.encode (assembleParams .dry false .medium 22 .swingAll .auto)) = 0x70016216 := by decide
theorem test_table_word : decodeTableWord 32 0x10000000 = some .clrb := by decide
theorem test_with_fetch_word : (State.reset.withFetchWord 32 0x10000000).pending = [.command 0x10000000] := by decide
/-- R80's notation. -/
theorem test_asm_text : asmText (.encode pV30) = "ENCODE mode=AUTO, power=1, fan=AUTO, temp=25, vv=AUTO, hv=AUTO" := by
  decide

/-! ## The pure functions -/

/-- V3, V6, V7, V10. -/
theorem test_enc : enc 5 4 = [true, false, true, false] ∧ enc 9 4 = [true, false, false, true]
    ∧ enc 14 4 = [false, true, true, true] ∧ enc 255 3 = [true, true, true] := by decide
/-- R12's examples. -/
theorem test_value : bitsVal [false, false, false, true, false, false, false, false] = 0x08
    ∧ bitsVal [true, false, false, true, false, false, false, false] = 0x09 := by decide
/-- V25, V27, V28, V29. -/
theorem test_checksum : checksum 10 0xFF 0xFF 0xFF 0xFF 0xFF 0xFF 0xFF 0xFF = 3
    ∧ checksum 10 0xF0 0xF0 0xF0 0xF0 0xFF 0x0F 0x0F 0x0F = 0xA
    ∧ checksum 10 0x12 0x34 0x56 0x78 0x9A 0xBC 0xDE 0xF0 = 5
    ∧ checksum 10 0x08 0x09 0x20 0x50 0x02 0x00 0x20 0x00 = 0xD := by decide
/-- V18 to V20. -/
theorem test_swing : swing ⟨.auto, true, .auto, 25, .swingLow, .swingSpread⟩ = true
    ∧ swing ⟨.auto, true, .auto, 25, .swingLow, .hPos3⟩ = false
    ∧ swing ⟨.auto, true, .auto, 25, .auto, .swingSpread⟩ = false := by decide
/-- V22, V23. -/
theorem test_temperature : tempField .source ⟨.auto, true, .auto, 30, .auto, .auto⟩ = some 14
    ∧ tempField .source ⟨.auto, true, .auto, 16, .auto, .auto⟩ = some 0
    ∧ tempField .source ⟨.auto, true, .auto, 15, .auto, .auto⟩ = none
    ∧ tempField .source ⟨.auto, true, .auto, 31, .auto, .auto⟩ = none := by decide
/-- R78. -/
theorem test_symbol_text : symbolText [.zero, .one, .gap] = "01 " := by decide

/-! ## One command each -/

/-- R150's example: `NOP` clears the recorded error. -/
theorem test_nop : (after .nop { State.reset with lasterr := .notValid }).lasterr = .ok := by decide
/-- R94's example: after an `ENCODE`, `CLRB` then `RDST` returns 0. -/
theorem test_clrb : answers .ok 0x0000 (exec .rdst (after .clrb ready)) = true := by decide
/-- V54. -/
theorem test_put_fits : (after (.put 2 3) (lengthIs 70)).blen = 72 ∧ (after (.put 2 3) (lengthIs 70)).fb = 3#72 <<< 70 := by
  decide
/-- V53. -/
theorem test_put_overflow : exec (.put 3 7) (lengthIs 70) = .next (faultOnly .bufferOverflow (lengthIs 70)) := by rfl
/-- R123's example. -/
theorem test_csum :
    frameByte (after .csum { State.reset with fb := 0x0020000250200908, blen := 64 }).fb 8 = 0xD0 := by decide
/-- V56. -/
theorem test_csum_short : answers .badFrameLength 0 (exec .csum (lengthIs 63)) = true := by decide
/-- V31's frame. -/
theorem test_build :
    (after (.build (assembleParams .cool true .high 16 .swingAll .swingAll)) State.reset).frame
      = [0x79, 0x00, 0x20, 0x50, 0x02, 0x11, 0x20, 0x00, 0x60] := by decide
/-- V33's frame. -/
theorem test_build_one_axis :
    (after (.build (assembleParams .dry false .medium 22 .swingAll .auto)) State.reset).frame
      = [0x22, 0x06, 0x20, 0x50, 0x02, 0x01, 0x20, 0x00, 0x40] := by decide
/-- R137's example. -/
theorem test_sym : symbolText (after .sym { State.reset with fb := 0xD00020000250200908, blen := 72 }).symbols.toList
    = "00010000100100000000010000001010010 00000000000001000000000000001011" := by decide
/-- V57. -/
theorem test_sym_short : answers .badFrameLength 0 (exec .sym (lengthIs 64)) = true := by decide
/-- V34: an all-ones frame; its durations sum to 229810. -/
theorem test_pulse_all_ones : totalDuration
    (after .pulse { State.reset with symbols := symbolsOf (BitVec.allOnes 72), blen := 72, sv := true }).pulses = 229810 := by
  decide +kernel
/-- V58. -/
theorem test_pulse_not_valid : answers .notValid 0 (exec .pulse (lengthIs 72)) = true := by decide
/-- V30's sum, 169386, and its status word. -/
theorem test_encode : totalDuration ready.pulses = 169386 ∧ ready.statusWord = 0x01C8 := by decide +kernel
/-- V46: `IllegalParam` wins over `RangeError`. -/
theorem test_encode_priority : (match decode 0x7002481F with
    | .command i => answers .illegalParam 0 (exec i ready)
    | .malformed _ => false) = true := by decide
/-- V59. -/
theorem test_rdf : answers .ok 0xFF (exec (.rdf 0) { lengthIs 10 with fb := 0x3FF }) = true
    ∧ answers .notValid 0 (exec (.rdf 1) { lengthIs 10 with fb := 0x3FF }) = true := by decide
/-- P1 line 5 and R152's example. -/
theorem test_rds : answers .ok 2 (exec (.rds 35) ready) = true ∧ answers .ok 1 (exec (.rds 3) ready) = true := by decide
/-- P1 lines 8 and 9. -/
theorem test_rdp : answers .ok 0x0694 (exec (.rdp 9) ready) = true ∧ answers .ok 0x4FFA (exec (.rdp 73) ready) = true := by
  decide
/-- P1 line 2 and P3 line 3. -/
theorem test_rdst : answers .ok 0x01C8 (exec .rdst ready) = true
    ∧ answers .ok 0x0200 (exec .rdst (after (.encode (assembleParams .auto true .auto 31 .auto .auto)) ready)) = true := by
  decide
/-- V36: a reserved opcode from reset leaves `LASTERR = 3`. -/
theorem test_step_malformed : nextIs (fun t => decide (t = faultOnly .illegalCommand State.reset)) (step (withWord 0xC0000000))
    = true := by decide +kernel
/-- A step runs the word the host issued (P1 line 1). -/
theorem test_step_runs : nextIs (fun t => decide (t = ready)) (step (State.reset.withFetchWord 32 0x70000819)) = true := by decide +kernel

/-! ## Concrete values that meet the hypotheses of the statements -/

/-- The hypotheses of `WordsOf` for one opcode, on a word with a must-be-zero bit set and on a word with none. -/
abbrev WordHypotheses (op : BitVec 4) (mustBeZero bad good : Word) : Prop :=
  (withWord bad).cfg.wf = true ∧ (withWord bad).pending = .command bad :: [] ∧ bad.extractLsb' 28 4 = op
    ∧ bad &&& mustBeZero ≠ 0
    ∧ (withWord good).cfg.wf = true ∧ (withWord good).pending = .command good :: [] ∧ good.extractLsb' 28 4 = op
    ∧ good &&& mustBeZero = 0

/-- Legal parameters of given tags and temperature, the other fields 0. -/
def params (mode : BitVec 3) (vv : BitVec 4) (temp : Byte) : ParamWord := ⟨temp, mode, true, 0, vv, 0⟩

/-- A reset state whose `S` and `PB` hold something else. -/
def otherContents : State :=
  { State.reset with symbols := Vector.replicate 68 .one, pulses := Vector.replicate 140 7 }

theorem ready_inv : ready.Inv where
  blen_le := by decide
  tail_zero k hk := by
    rw [show ready.blen.toNat = 72 by decide] at hk
    exact BitVec.getLsbD_of_ge _ _ hk
  symbols_valid _ := by decide +kernel
  pulses_valid _ := by decide +kernel
  fault_data r hr hc := by
    rw [show ready.response = some ⟨.ok, 0⟩ by decide] at hr
    cases hr
    exact absurd rfl hc

theorem withWord_inv (w : Word) : (withWord w).Inv where
  blen_le := by simp [withWord, State.reset]
  tail_zero k _ := by simp [withWord, State.reset]
  symbols_valid h := by cases h
  pulses_valid h := by cases h
  fault_data r h := by cases h

theorem witness_DecodeOfEncodeIsTheCommand : (Instr.put 1 255).wf = true ∧ (Instr.put 8 0).wf = true
    ∧ (Instr.rdf 8).wf = true ∧ (Instr.rds 67).wf = true ∧ (Instr.rdp 139).wf = true ∧ (Instr.encode pV30).wf = true := by
  decide
theorem witness_EncodeOfDecodeIsTheWord : decode 0x28000020 = .command (.put 8 0x20) := by decide
theorem witness_OperandsAreTheWordsFields : decode 0x28000020 = .command (.put 8 0x20)
    ∧ decode 0x40000819 = .command (.build pV30) ∧ decode 0x70000819 = .command (.encode pV30)
    ∧ decode 0x80000008 = .command (.rdf 8) ∧ decode 0x90000043 = .command (.rds 67)
    ∧ decode 0xA000008B = .command (.rdp 139) := by decide
theorem witness_DecodedParametersNameTheTags :
    decodeParams ⟨255, 4, false, 3, 8, 7⟩ = some ⟨.heat, false, .high, 255, .swingHigh, .swingSpread⟩
    ∧ decodeParams (params 5 0 25) = none ∧ decodeParams (params 0 9 25) = none := by decide

theorem witness_StepRunsTheDecodedCommand : (withWord 0x70000819).cfg.wf = true
    ∧ (withWord 0x70000819).pending = .command 0x70000819 :: [] ∧ decode 0x70000819 = .command (.encode pV30) := by decide
theorem witness_MalformedWordIsIllegalCommand : (withWord 0x20000000).cfg.wf = true
    ∧ (withWord 0x20000000).pending = .command 0x20000000 :: [] ∧ ∀ i, decode 0x20000000 ≠ .command i := by
  refine ⟨by decide, by decide, fun i h => ?_⟩
  rw [show decode 0x20000000 = .malformed .operandRange by decide] at h
  cases h
theorem witness_ReservedOpcodeIsIllegalCommand : (withWord 0xC0000000).cfg.wf = true
    ∧ (withWord 0xC0000000).pending = .command 0xC0000000 :: []
    ∧ 0xC ≤ ((0xC0000000 : Word).extractLsb' 28 4).toNat ∧ 0xC ≤ ((0xFFFFFFFF : Word).extractLsb' 28 4).toNat := by decide
theorem witness_ResetEventGivesTheResetState :
    let s := { ready with pending := [.reset] }
    let t := { ready with pending := [.commandCutOff 0x10000000] }
    s.cfg.wf = true ∧ s.pending = .reset :: [] ∧ t.cfg.wf = true ∧ t.pending = .commandCutOff 0x10000000 :: [] := by decide
theorem witness_IdleStepHoldsTheState : ready.cfg.wf = true ∧ ready.pending = [] := by decide
theorem witness_EveryCommandWordIsAnswered : (withWord 0xFFFFFFFF).cfg.wf = true
    ∧ (withWord 0xFFFFFFFF).pending = .command 0xFFFFFFFF :: [] := by decide
theorem witness_IllFormedConfigurationIsRefused :
    ({ State.reset with cfg := { Config.irfb with layout := [] } } : State).cfg.wf = false := by decide

theorem witness_NopRule : WordHypotheses 0x0 0x0FFFFFFF 0x00000001 0x00000000 ∧ ready.cfg.wf = true := by decide
theorem witness_ClrbRule : WordHypotheses 0x1 0x0FFFFFFF 0x18000000 0x10000000 ∧ ready.cfg.wf = true := by decide
theorem witness_PutRule : WordHypotheses 0x2 0x00FFFF00 0x21000100 0x2F0000FF ∧ (lengthIs 0).cfg.wf = true
    ∧ (0 : BitVec 4).toNat = 0 ∧ 9 ≤ (9 : BitVec 4).toNat
    ∧ (1 ≤ (8 : BitVec 4).toNat ∧ (8 : BitVec 4).toNat ≤ 8 ∧ 72 < (lengthIs 65).blen.toNat + (8 : BitVec 4).toNat)
    ∧ (1 ≤ (1 : BitVec 4).toNat ∧ (1 : BitVec 4).toNat ≤ 8 ∧ 72 < (lengthIs 72).blen.toNat + (1 : BitVec 4).toNat)
    ∧ (1 ≤ (8 : BitVec 4).toNat ∧ (8 : BitVec 4).toNat ≤ 8 ∧ (lengthIs 64).blen.toNat + (8 : BitVec 4).toNat ≤ 72)
    ∧ (1 ≤ (1 : BitVec 4).toNat ∧ (1 : BitVec 4).toNat ≤ 8 ∧ (lengthIs 0).blen.toNat + (1 : BitVec 4).toNat ≤ 72) := by decide
theorem witness_CsumRule : WordHypotheses 0x3 0x0FFFFFFF 0x30000001 0x30000000 ∧ (lengthIs 64).cfg.wf = true
    ∧ (lengthIs 63).blen.toNat ≠ 64 ∧ (lengthIs 65).blen.toNat ≠ 64 ∧ (lengthIs 64).blen.toNat = 64 := by decide
/-- Both reserved tags, both sides of both temperature bounds. -/
theorem witness_BuildRule : WordHypotheses 0x4 0x0FE00000 0x40200819 0x40000819 ∧ ready.cfg.wf = true
    ∧ ¬ LegalTags (params 5 0 25) ∧ ¬ LegalTags (params 0 9 25)
    ∧ (LegalTags (params 4 8 15) ∧ ¬ LegalTemp ready.cfg.consts (params 4 8 15))
    ∧ (LegalTags (params 4 8 31) ∧ ¬ LegalTemp ready.cfg.consts (params 4 8 31))
    ∧ (LegalTags (params 4 8 16) ∧ LegalTemp ready.cfg.consts (params 4 8 16))
    ∧ (LegalTags (params 0 0 30) ∧ LegalTemp ready.cfg.consts (params 0 0 30)) := by decide
theorem witness_SymRule : WordHypotheses 0x5 0x0FFFFFFF 0x50000001 0x50000000 ∧ (lengthIs 72).cfg.wf = true
    ∧ (lengthIs 71).blen.toNat ≠ 72 ∧ (lengthIs 72).blen.toNat = 72 := by decide
theorem witness_PulseRule : WordHypotheses 0x6 0x0FFFFFFF 0x60000001 0x60000000 ∧ ready.cfg.wf = true
    ∧ State.reset.sv = false ∧ ready.sv = true
    ∧ ready.symbols[0] = .zero ∧ ready.symbols[67] = .one ∧ ready.symbols[35] = .gap := by decide +kernel
theorem witness_EncodeRule : WordHypotheses 0x7 0x0FE00000 0x70E00819 0x70000819 ∧ ready.cfg.wf = true
    ∧ ¬ LegalTags (params 7 0 25) ∧ ¬ LegalTags (params 0 15 25)
    ∧ (LegalTags (params 4 8 15) ∧ ¬ LegalTemp ready.cfg.consts (params 4 8 15))
    ∧ (LegalTags (params 4 8 31) ∧ ¬ LegalTemp ready.cfg.consts (params 4 8 31))
    ∧ (LegalTags (params 4 8 16) ∧ LegalTemp ready.cfg.consts (params 4 8 16))
    ∧ (LegalTags (params 0 0 30) ∧ LegalTemp ready.cfg.consts (params 0 0 30)) := by decide
theorem witness_RdfRule : WordHypotheses 0x8 0x0FFFFF00 0x80000100 0x80000009 ∧ ready.cfg.wf = true
    ∧ 8 < (9 : Byte).toNat
    ∧ ((8 : Byte).toNat ≤ 8 ∧ (lengthIs 71).blen.toNat < 8 * (8 : Byte).toNat + 8)
    ∧ ((0 : Byte).toNat ≤ 8 ∧ (lengthIs 7).blen.toNat < 8 * (0 : Byte).toNat + 8)
    ∧ ((8 : Byte).toNat ≤ 8 ∧ 8 * (8 : Byte).toNat + 8 ≤ ready.blen.toNat)
    ∧ ((0 : Byte).toNat ≤ 8 ∧ 8 * (0 : Byte).toNat + 8 ≤ (lengthIs 8).blen.toNat) := by decide
theorem witness_RdsRule : WordHypotheses 0x9 0x0FFFFF00 0x91000000 0x90000043 ∧ ready.cfg.wf = true
    ∧ 67 < (68 : Byte).toNat ∧ ((67 : Byte).toNat ≤ 67 ∧ State.reset.sv = false)
    ∧ ((67 : Byte).toNat ≤ 67 ∧ ready.sv = true)
    ∧ ready.symbols[(0 : Byte).toNat] = .zero ∧ ready.symbols[(67 : Byte).toNat] = .one
    ∧ ready.symbols[(35 : Byte).toNat] = .gap ∧ ready.Inv :=
  ⟨by decide, by decide, by decide, by decide, by decide, by decide +kernel, by decide +kernel, by decide +kernel, ready_inv⟩
theorem witness_RdpRule : WordHypotheses 0xA 0x0FFFFF00 0xA0000100 0xA000008B ∧ ready.cfg.wf = true
    ∧ 139 < (140 : Byte).toNat ∧ ((139 : Byte).toNat ≤ 139 ∧ State.reset.pv = false)
    ∧ ((139 : Byte).toNat ≤ 139 ∧ ready.pv = true) ∧ ready.Inv :=
  ⟨by decide, by decide, by decide, by decide, by decide, ready_inv⟩
theorem witness_RdstRule : WordHypotheses 0xB 0x0FFFFFFF 0xB1000000 0xB0000000 ∧ ready.cfg.wf = true := by decide

/-- One word for each of the four codes, a malformed one among them. -/
theorem witness_DefaultFaultChangesOnlyLastErr :
    (∃ t, step (withWord 0xC0000000) = .next t ∧ t.response = some ⟨.illegalCommand, 0⟩)
    ∧ (∃ t, step { withWord 0x21000000 with blen := 72 } = .next t ∧ t.response = some ⟨.bufferOverflow, 0⟩)
    ∧ (∃ t, step (withWord 0x50000000) = .next t ∧ t.response = some ⟨.badFrameLength, 0⟩)
    ∧ (∃ t, step (withWord 0x60000000) = .next t ∧ t.response = some ⟨.notValid, 0⟩) :=
  ⟨exists_next _ (by decide), exists_next _ (by decide), exists_next _ (by decide), exists_next _ (by decide)⟩
theorem witness_RejectionInvalidatesEverything :
    (∃ t, exec (.encode (params 0 0 31)) ready = .next t ∧ t.response = some ⟨.rangeError, 0⟩)
    ∧ (∃ t, exec (.build (params 5 0 31)) ready = .next t ∧ t.response = some ⟨.illegalParam, 0⟩)
    ∧ (∀ j ∈ [Instr.rdp 0, .nop, .clrb, .rdst, .csum], needsResult j = true ∨ j = .nop ∨ j = .rdst ∨ j = .clrb)
    ∧ needsResult .sym = true :=
  ⟨exists_next _ (by decide), exists_next _ (by decide), by decide, by decide⟩
/-- A malformed `RDST`, a successful command and a well-formed `RDST`. -/
theorem witness_LastErrIsTheLastResponseCode :
    (∃ t, step (withWord 0xB1000000) = .next t ∧ t.response = some ⟨.illegalCommand, 0⟩)
    ∧ (∃ t, step (withWord 0x10000000) = .next t ∧ t.response = some ⟨.ok, 0⟩)
    ∧ decode 0xB1000000 ≠ .command .rdst ∧ decode 0x10000000 ≠ .command .rdst
    ∧ (∃ t, step (withWord 0xB0000000) = .next t ∧ t.response = some ⟨.ok, 0⟩) ∧ decode 0xB0000000 = .command .rdst :=
  ⟨exists_next _ (by decide), exists_next _ (by decide), by decide, by decide, exists_next _ (by decide), by decide⟩
theorem witness_OnlySuccessfulReadsCarryData :
    (∃ t, exec (.rdf 9) ready = .next t ∧ t.response = some ⟨.illegalCommand, 0⟩)
    ∧ (∃ t, exec .nop ready = .next t ∧ t.response = some ⟨.ok, 0⟩) ∧ isRead .nop = false :=
  ⟨exists_next _ (by decide), exists_next _ (by decide), by decide⟩
/-- Every line of the table of R26, each command from a state on which it ends so. -/
theorem witness_ValidityFlagTable :
    (∃ t, exec .sym ready = .next t ∧ t.response = some ⟨.ok, 0⟩)
    ∧ (∃ t, exec .pulse ready = .next t ∧ t.response = some ⟨.ok, 0⟩)
    ∧ (∃ t, exec (.encode pV30) ready = .next t ∧ t.response = some ⟨.ok, 0⟩)
    ∧ (∃ t, exec .clrb ready = .next t ∧ t.response = some ⟨.ok, 0⟩)
    ∧ (∃ t, exec .csum (lengthIs 64) = .next t ∧ t.response = some ⟨.ok, 0⟩)
    ∧ (∃ t, exec (.put 8 1) (lengthIs 64) = .next t ∧ t.response = some ⟨.ok, 0⟩)
    ∧ (∃ t, exec (.build pV30) ready = .next t ∧ t.response = some ⟨.ok, 0⟩)
    ∧ (∃ t, exec .nop ready = .next t ∧ t.response = some ⟨.ok, 0⟩)
    ∧ (∃ t, exec (.rdf 8) ready = .next t ∧ t.response = some ⟨.ok, 0xD0⟩) ∧ isRead (.rdf 8) = true
    ∧ (∃ t, exec (.build (params 0 0 15)) ready = .next t ∧ t.response = some ⟨.rangeError, 0⟩)
    ∧ (∃ t, exec .csum ready = .next t ∧ t.response = some ⟨.badFrameLength, 0⟩) :=
  ⟨exists_next _ (by decide), exists_next _ (by decide), exists_next _ (by decide), exists_next _ (by decide),
    exists_next _ (by decide), exists_next _ (by decide), exists_next _ (by decide), exists_next _ (by decide),
    exists_next _ (by decide), by decide, exists_next _ (by decide), exists_next _ (by decide)⟩
theorem witness_OnlyTheseCommandsWrite :
    (∃ t, exec (.put 8 1) State.reset = .next t ∧ (t.fb ≠ State.reset.fb ∨ t.blen ≠ State.reset.blen))
    ∧ (∃ t, exec .sym (lengthIs 72) = .next t ∧ t.symbols ≠ (lengthIs 72).symbols)
    ∧ (∃ t, exec (.encode pV30) State.reset = .next t ∧ t.pulses ≠ State.reset.pulses) :=
  ⟨exists_next _ (by decide), exists_next _ (by decide +kernel), exists_next _ (by decide +kernel)⟩
theorem witness_ReadsAreIdempotent :
    (isRead (.rdp 139) = true ∧ ∃ t, exec (.rdp 139) ready = .next t ∧ t.response = some ⟨.ok, 40947⟩)
    ∧ (isRead .rdst = true ∧ ∃ t, exec .rdst ready = .next t ∧ t.response = some ⟨.ok, 0x01C8⟩) :=
  ⟨⟨by decide, exists_next _ (by decide +kernel)⟩, ⟨by decide, exists_next _ (by decide)⟩⟩

theorem witness_StepKeepsTheInvariant :
    (withWord 0x70000819).Inv ∧ ∃ t, step (withWord 0x70000819) = .next t ∧ t.response = some ⟨.ok, 0⟩ :=
  ⟨withWord_inv _, exists_next _ (by decide)⟩
theorem witness_StepKeepsTheConfiguration :
    ∃ t, step (withWord 0x70000819) = .next t ∧ t.response = some ⟨.ok, 0⟩ := exists_next _ (by decide)
/-- Two states that differ in `S` and in `PB`, neither readable. -/
theorem witness_UnobservableBuffersNeverMatter :
    SameToHost { State.reset with pending := [.command 0x90000000] } { otherContents with pending := [.command 0x90000000] }
    ∧ State.reset.symbols ≠ otherContents.symbols ∧ State.reset.pulses ≠ otherContents.pulses
    ∧ ∃ t, step { State.reset with pending := [.command 0x90000000] } = .next t ∧ t.response = some ⟨.notValid, 0⟩ :=
  ⟨⟨rfl, rfl, rfl, rfl, rfl, rfl, rfl, rfl, fun h => (by cases h), fun h => (by cases h)⟩,
    by decide +kernel, by decide +kernel, exists_next _ (by decide)⟩

theorem witness_CommandsInTheResetState : otherContents.cfg.wf = true
    ∧ SameToHost otherContents { State.reset with cfg := otherContents.cfg, pending := otherContents.pending }
    ∧ (8 : Byte).toNat ≤ 8 ∧ (67 : Byte).toNat ≤ 67 ∧ (139 : Byte).toNat ≤ 139
    ∧ (1 ≤ (1 : BitVec 4).toNat ∧ (1 : BitVec 4).toNat ≤ 8) ∧ (1 ≤ (8 : BitVec 4).toNat ∧ (8 : BitVec 4).toNat ≤ 8)
    ∧ (LegalTags (params 4 8 16) ∧ LegalTemp otherContents.cfg.consts (params 4 8 16)) :=
  ⟨by decide, ⟨rfl, rfl, rfl, rfl, rfl, rfl, rfl, rfl, fun h => (by cases h), fun h => (by cases h)⟩,
    by decide, by decide, by decide, by decide, by decide, by decide⟩
theorem witness_ClrbReachesTheResetState : ready.cfg.wf = true := by decide

theorem witness_EncoderLaws : (1 ≤ 1 ∧ 1 ≤ 8 ∧ 255 ≤ 255) ∧ (1 ≤ 8 ∧ 8 ≤ 8)
    ∧ (1 ≤ 3 ∧ 1 ≤ 5 ∧ 3 + 5 ≤ 8) ∧ (1 ≤ 7 ∧ 1 ≤ 1 ∧ 7 + 1 ≤ 8) := by decide
theorem witness_BuiltFrameChecksumMatches :
    (∃ t, exec (.build pV30) ready = .next t ∧ t.response = some ⟨.ok, 0⟩)
    ∧ (∃ t, exec (.encode pV30) ready = .next t ∧ t.response = some ⟨.ok, 0⟩) :=
  ⟨exists_next _ (by decide), exists_next _ (by decide)⟩
theorem witness_DefaultLayoutBytes : ready.cfg.layout = layoutDefault ∧ ready.cfg.consts = Constants.source
    ∧ decodeParams pV30 = some ⟨.auto, true, .auto, 25, .auto, .auto⟩
    ∧ ∃ t, exec (.build pV30) ready = .next t ∧ t.response = some ⟨.ok, 0⟩ :=
  ⟨by decide, by decide, by decide, exists_next _ (by decide)⟩
/-- Two frames that differ in byte 4 alone. -/
theorem witness_ChecksumReadsOnlySevenNibbles :
    let s := lengthIs 64
    let s' := { lengthIs 64 with fb := BitVec.twoPow 72 32 }
    s.cfg.consts = s'.cfg.consts ∧ s.blen.toNat = 64 ∧ s'.blen.toNat = 64
    ∧ (∀ k, (∃ i < 4, 8 * i ≤ k ∧ k < 8 * i + 4) ∨ (∃ i, 5 ≤ i ∧ i ≤ 7 ∧ 8 * i + 4 ≤ k ∧ k < 8 * i + 8) →
        s.fb.getLsbD k = s'.fb.getLsbD k)
    ∧ (∃ t, exec .csum s = .next t ∧ t.lasterr = .ok) ∧ (∃ t, exec .csum s' = .next t ∧ t.lasterr = .ok) := by
  refine ⟨by decide, by decide, by decide, fun k hk => ?_, exists_next _ (by decide), exists_next _ (by decide)⟩
  have hk32 : k ≠ 32 := by rcases hk with ⟨i, _, _, _⟩ | ⟨i, _, _, _, _⟩ <;> omega
  simp [lengthIs, State.reset, BitVec.getLsbD_twoPow]
  omega
theorem witness_SymbolsAreTheByteStringsConcatenated : ready.cfg.wf = true ∧ ready.blen.toNat = 72
    ∧ ∃ t, exec .sym ready = .next t ∧ t.lasterr = .ok := ⟨by decide, by decide, exists_next _ (by decide)⟩
/-- Two frames that differ in bit 35 alone. -/
theorem witness_DroppedBitsReachNoSymbol :
    let s := lengthIs 72
    let s' := { lengthIs 72 with fb := BitVec.twoPow 72 35 }
    s.blen.toNat = 72 ∧ s'.blen.toNat = 72 ∧ (∀ k, k < 35 ∨ 40 ≤ k → s.fb.getLsbD k = s'.fb.getLsbD k)
    ∧ (∃ t, exec .sym s = .next t ∧ t.lasterr = .ok) ∧ (∃ t, exec .sym s' = .next t ∧ t.lasterr = .ok) := by
  refine ⟨by decide, by decide, fun k hk => ?_, exists_next _ (by decide), exists_next _ (by decide)⟩
  simp [lengthIs, State.reset, BitVec.getLsbD_twoPow]
  omega
theorem witness_PulsesAreTheSequenceOfTheSymbols : ready.sv = true ∧ ∃ t, exec .pulse ready = .next t ∧ t.lasterr = .ok :=
  ⟨by decide, exists_next _ (by decide)⟩
theorem witness_EncodeIsTheSourcePipeline : ready.cfg.wf = true
    ∧ (LegalTags (params 4 8 16) ∧ LegalTemp ready.cfg.consts (params 4 8 16))
    ∧ (LegalTags (params 0 0 30) ∧ LegalTemp ready.cfg.consts (params 0 0 30)) := by decide
theorem witness_ReadablePulsesHaveTheProtocolShape : ready.Inv ∧ ready.pv = true ∧ ready.cfg.consts = Constants.source :=
  ⟨ready_inv, by decide, by decide⟩
theorem witness_TotalDurationCountsTheOnes : ready.Inv ∧ ready.pv = true ∧ ready.cfg.consts = Constants.source :=
  ⟨ready_inv, by decide, by decide⟩
theorem witness_BuildAndEncodeForgetTheOldFrame : State.reset.cfg = (lengthIs 72).cfg
    ∧ (∃ t, exec (.encode pV30) State.reset = .next t ∧ t.lasterr = .ok)
    ∧ (∃ t, exec (.encode pV30) (lengthIs 72) = .next t ∧ t.lasterr = .ok) :=
  ⟨by decide, exists_next _ (by decide), exists_next _ (by decide)⟩
theorem witness_LdFrameLoadsEightBytes : ready.cfg.wf = true := by decide
theorem witness_ReadOutGivesTheWholeSequence : State.reset.cfg.wf = true ∧ LegalTags pV30
    ∧ LegalTemp State.reset.cfg.consts pV30 ∧ (∀ j ∈ [Instr.rdf 0, .nop, .rdst], isRead j = true ∨ j = .nop)
    ∧ (139 : Byte).toNat ≤ 139 := by decide

end Sys2Proof.Tests
end

section
/-! What a well-formed configuration is, condition by condition (R10, log 3), and that an ill-formed one gives every step and
every command no meaning (log 4). -/

namespace Sys2Proof

/-! ### The code tables list exactly the codes of their enumerations -/

theorem ModeCodes.forall_mem_all (c : ModeCodes) (p : Nat → Prop) : (∀ v ∈ c.all, p v) ↔ ∀ m, p (c.code m) := by
  constructor
  · intro h m
    cases m <;> exact h _ (by simp [all, code])
  · intro h
    simpa [all] using ⟨h .auto, h .cool, h .dry, h .fan, h .heat⟩

theorem FanCodes.forall_mem_all (c : FanCodes) (p : Nat → Prop) : (∀ v ∈ c.all, p v) ↔ ∀ f, p (c.code f) := by
  constructor
  · intro h f
    cases f <;> exact h _ (by simp [all, code])
  · intro h
    simpa [all] using ⟨h .auto, h .low, h .medium, h .high⟩

theorem VVaneCodes.forall_mem_all (c : VVaneCodes) (p : Nat → Prop) : (∀ v ∈ c.all, p v) ↔ ∀ v, p (c.code v) := by
  constructor
  · intro h v
    cases v <;> exact h _ (by simp [all, code])
  · intro h
    simpa [all] using ⟨h .auto, h .vPos1, h .vPos2, h .vPos3, h .vPos4, h .swingAll, h .swingLow, h .swingCenter,
      h .swingHigh⟩

theorem HVaneCodes.forall_mem_all (c : HVaneCodes) (p : Nat → Prop) : (∀ v ∈ c.all, p v) ↔ ∀ h, p (c.code h) := by
  constructor
  · intro h v
    cases v <;> exact h _ (by simp [all, code])
  · intro h
    simpa [all] using ⟨h .auto, h .hPos1, h .hPos2, h .hPos3, h .hPos4, h .hPos5, h .swingAll, h .swingSpread⟩

/-! ### The conditions of `Config.wf` as propositions -/

theorem Config.layoutHasEightBytes_iff (c : Config) : c.layoutHasEightBytes = true ↔ c.layout.length = 8 :=
  decide_eq_true_iff

theorem ByteLayout.widthsOk_iff (b : ByteLayout) :
    b.widthsOk = true ↔ (∀ e ∈ b, 1 ≤ e.width ∧ e.width ≤ 8) ∧ (b.map (·.width)).sum = 8 := by
  simp only [widthsOk, Bool.and_eq_true, List.all_eq_true, decide_eq_true_eq]

theorem Config.codesFitFourBits_iff (c : Config) :
    c.codesFitFourBits = true ↔
      (∀ m, c.codeMode.code m ≤ 15) ∧ (∀ f, c.codeFan.code f ≤ 15)
        ∧ (∀ v, c.codeVV.code v ≤ 15) ∧ (∀ h, c.codeHV.code h ≤ 15) := by
  simp only [codesFitFourBits, List.all_append, Bool.and_eq_true, List.all_eq_true, decide_eq_true_eq,
    ModeCodes.forall_mem_all, FanCodes.forall_mem_all, VVaneCodes.forall_mem_all, HVaneCodes.forall_mem_all, and_assoc]

theorem Config.fieldOk_iff (c : Config) (e : LayoutEntry) :
    c.fieldOk e = true ↔
      (e.source = .mode → ∀ m, c.codeMode.code m < 2 ^ e.width)
        ∧ (e.source = .fan → ∀ f, c.codeFan.code f < 2 ^ e.width)
        ∧ (e.source = .vvane → ∀ v, c.codeVV.code v < 2 ^ e.width)
        ∧ (e.source = .hvane → ∀ h, c.codeHV.code h < 2 ^ e.width)
        ∧ (∀ v, e.source = .const v → v ≤ 255) := by
  obtain ⟨source, width⟩ := e
  cases source <;> simp [fieldOk, ModeCodes.forall_mem_all, FanCodes.forall_mem_all, VVaneCodes.forall_mem_all,
    HVaneCodes.forall_mem_all]

theorem Constants.ok_iff (k : Constants) :
    k.ok = true ↔ (∀ d ∈ k.durations, d < 2 ^ 16) ∧ k.tempBias ≤ k.tempMin := by
  simp only [ok, Bool.and_eq_true, List.all_eq_true, decide_eq_true_eq, Nat.reducePow]

/-- `Config.wf` in the words of its parts, in the order of R10. -/
theorem Config.wf_iff (c : Config) :
    c.wf = true ↔
      c.layoutHasEightBytes = true ∧ (∀ b ∈ c.layout, b.widthsOk = true) ∧ c.codesFitFourBits = true
        ∧ (∀ b ∈ c.layout, ∀ e ∈ b, c.fieldOk e = true) ∧ c.consts.ok = true := by
  simp only [wf, Bool.and_eq_true, List.all_eq_true, and_assoc]

namespace Machine

/-! ### An ill-formed configuration is refused -/

theorem step_of_not_wf {s : State} (h : s.cfg.wf = false) : step s = .refused .illFormedConfig :=
  withConfig_of_not_wf h _

/-- Every command's meaning begins with the check of the configuration, whatever the command does after it. -/
theorem exec_of_not_wf {s : State} (h : s.cfg.wf = false) (i : Instr) : exec i s = .refused .illFormedConfig := by
  cases i <;> exact withConfig_of_not_wf h _

/-- Settles O13: each condition of `Config.wf` is its part of R10 (or of log 3), and the check of the configuration comes before
any effect of a step or a command. -/
theorem illFormedConfigurationIsRefused : Obligations.IllFormedConfigurationIsRefused := by
  refine ⟨fun c => ?_, fun s h => ⟨step_of_not_wf h, exec_of_not_wf h⟩⟩
  simp only [c.wf_iff, c.layoutHasEightBytes_iff, ByteLayout.widthsOk_iff, c.codesFitFourBits_iff, c.fieldOk_iff,
    Constants.ok_iff, Constants.durations, and_assoc]

end Machine

end Sys2Proof
end

section
/-! How a command's response tells the way it ended, and what it wrote: `LASTERR` (R28), the validity flags (R26) and the write
sets of R33. -/

namespace Sys2Proof.Machine

/-- Every success but that of `RDST` ends by recording and answering `OK` (R28). -/
theorem Succeeds.eq_respond_ok {s t : State} {i : Instr} (h : Succeeds s t i) (hi : i ≠ .rdst) :
    ∃ (u : State) (d : BitVec 16), t = u.respond .ok d := by
  cases i with
  | nop => exact ⟨_, _, h⟩
  | clrb => exact ⟨_, _, h⟩
  | put w v => obtain ⟨_, ht⟩ := h; exact ⟨_, _, ht⟩
  | csum => obtain ⟨_, ht⟩ := h; exact ⟨_, _, ht⟩
  | build p => obtain ⟨_, _, _, ht⟩ := h; exact ⟨_, _, ht⟩
  | sym => obtain ⟨_, ht⟩ := h; exact ⟨_, _, ht⟩
  | pulse => obtain ⟨_, ht⟩ := h; exact ⟨_, _, ht⟩
  | encode p => obtain ⟨_, _, _, ht⟩ := h; exact ⟨_, _, ht⟩
  | rdf j => obtain ⟨_, ht⟩ := h; exact ⟨_, _, ht⟩
  | rds j => obtain ⟨_, _, ht⟩ := h; exact ⟨_, _, ht⟩
  | rdp j => obtain ⟨_, _, ht⟩ := h; exact ⟨_, _, ht⟩
  | rdst => exact absurd rfl hi

theorem Succeeds.code_eq_ok {s t : State} {i : Instr} {r : Response} (h : Succeeds s t i) (hr : t.response = some r) :
    r.code = .ok := by
  by_cases hi : i = .rdst
  · subst hi
    obtain rfl := h
    obtain rfl := Option.some.inj hr
    rfl
  · obtain ⟨u, d, rfl⟩ := h.eq_respond_ok hi
    obtain rfl := Option.some.inj hr
    rfl

/-- The response code tells which of the three ways a command ended. -/
theorem Ended.of_response {s t : State} {i : Instr} {r : Response} (h : Ended s t i) (hr : t.response = some r) :
    (r.code = .ok ∧ Succeeds s t i)
    ∨ (DefaultFault r.code ∧ i ≠ .rdst ∧ t = s.respond r.code 0)
    ∨ (Rejection r.code ∧ (∃ p, i = .build p ∨ i = .encode p) ∧ t = s.clearFrame.respond r.code 0) := by
  obtain hsucc | ⟨c, hc, hi, rfl⟩ | ⟨c, hc, p, hi, rfl⟩ := h
  · exact .inl ⟨hsucc.code_eq_ok hr, hsucc⟩
  · obtain rfl := Option.some.inj hr
    exact .inr (.inl ⟨hc, hi, rfl⟩)
  · obtain rfl := Option.some.inj hr
    exact .inr (.inr ⟨hc, ⟨p, hi⟩, rfl⟩)

theorem not_defaultFault_ok : ¬ DefaultFault .ok := by decide

theorem not_rejection_ok : ¬ Rejection .ok := by decide

theorem DefaultFault.not_rejection {c : RespCode} (h : DefaultFault c) : ¬ Rejection c := by
  obtain rfl | rfl | rfl | rfl := h <;> decide

/-! ### LASTERR -/

theorem Ended.lasterr_eq_code {s t : State} {i : Instr} {r : Response} (h : Ended s t i) (hr : t.response = some r)
    (hi : i ≠ .rdst) : t.lasterr = r.code := by
  obtain ⟨hok, hsucc⟩ | ⟨_, _, rfl⟩ | ⟨_, _, rfl⟩ := h.of_response hr
  · obtain ⟨u, d, rfl⟩ := hsucc.eq_respond_ok hi
    exact hok.symm
  · exact respond_lasterr ..
  · exact respond_lasterr ..

/-- `RDST` has no way to end but success (R154). -/
theorem Ended.eq_of_rdst {s t : State} (h : Ended s t .rdst) : t = s.respondUnrecorded s.statusWord := by
  obtain hsucc | ⟨_, _, hne, _⟩ | ⟨_, _, _, hi, _⟩ := h
  · exact hsucc
  · exact absurd rfl hne
  · obtain hi | hi := hi <;> cases hi

/-- A step with a command word pending runs the command it decodes to, or answers `IllegalCommand` (R50, R164). -/
theorem step_cases_of_command {s t : State} {w : Word} {rest : List HostEvent} (hp : s.pending = .command w :: rest)
    (h : step s = .next t) :
    (∃ i, decode w = .command i ∧ exec i { s with pending := rest } = .next t)
    ∨ (∃ why, decode w = .malformed why ∧ t = State.respond { s with pending := rest } .illegalCommand 0) := by
  obtain ⟨_, ⟨hq, _⟩ | ⟨_, _, i, hq, hd, he⟩ | ⟨_, _, why, hq, hd, ht⟩ | ⟨e, _, hq, hreset, _⟩⟩ := step_cases h
  all_goals rw [hp] at hq; cases hq
  · exact .inl ⟨i, hd, he⟩
  · exact .inr ⟨why, hd, ht⟩
  · obtain hreset | ⟨_, hreset⟩ := hreset <;> cases hreset

/-- Settles O28: a malformed word records `IllegalCommand`, a command other than `RDST` the code of its response, and `RDST`
only answers. -/
theorem lastErrIsTheLastResponseCode : Obligations.LastErrIsTheLastResponseCode := by
  intro s t w rest r hp h hr
  obtain ⟨i, hd, he⟩ | ⟨why, hd, rfl⟩ := step_cases_of_command hp h <;> rw [hd]
  · have hend := (exec_cases he).2
    refine ⟨fun hne => hend.lasterr_eq_code hr fun hi => hne (hi ▸ rfl), fun hi => ?_⟩
    cases hi
    obtain rfl := hend.eq_of_rdst
    obtain rfl := Option.some.inj hr
    exact ⟨rfl, rfl⟩
  · obtain rfl := Option.some.inj hr
    exact ⟨fun _ => rfl, nofun⟩

/-! ### The validity flags -/

/-- The lines of R26 for success, in the order of the statement. -/
theorem Succeeds.flags {s t : State} {i : Instr} (h : Succeeds s t i) :
    (i = .sym → t.sv = true ∧ t.pv = false)
      ∧ (i = .pulse → t.sv = s.sv ∧ t.pv = true)
      ∧ ((∃ p, i = .encode p) → t.sv = true ∧ t.pv = true)
      ∧ ((i = .clrb ∨ i = .csum ∨ (∃ w v, i = .put w v) ∨ ∃ p, i = .build p) → t.sv = false ∧ t.pv = false)
      ∧ ((i = .nop ∨ isRead i = true) → t.sv = s.sv ∧ t.pv = s.pv) := by
  cases i with
  | nop => obtain rfl := h; simp
  | clrb => obtain rfl := h; simp [isRead]
  | put w v => obtain ⟨_, rfl⟩ := h; simp [isRead]
  | csum => obtain ⟨_, rfl⟩ := h; simp [isRead]
  | build p => obtain ⟨P, _, _, rfl⟩ := h; simp [isRead]
  | sym => obtain ⟨_, rfl⟩ := h; simp [isRead]
  | pulse => obtain ⟨_, rfl⟩ := h; simp [isRead]
  | encode p => obtain ⟨P, _, _, rfl⟩ := h; simp [isRead]
  | rdf j => obtain ⟨_, rfl⟩ := h; simp
  | rds j => obtain ⟨_, _, rfl⟩ := h; simp
  | rdp j => obtain ⟨_, _, rfl⟩ := h; simp
  | rdst => obtain rfl := h; simp

/-- Settles O30: the response code tells how the command ended, and each ending has its lines of the table. -/
theorem validityFlagTable : Obligations.ValidityFlagTable := by
  intro i s t r h hr
  obtain ⟨hok, hsucc⟩ | ⟨hc, _, rfl⟩ | ⟨hc, _, rfl⟩ := (exec_cases h).2.of_response hr
  · refine ⟨fun _ => hsucc.flags, fun hrej => ?_, fun hfault => ?_⟩
    · exact absurd (hok ▸ hrej) not_rejection_ok
    · exact absurd (hok ▸ hfault) not_defaultFault_ok
  · refine ⟨fun hok => ?_, fun hrej => ?_, fun _ => by simp⟩
    · exact absurd (hok ▸ hc) not_defaultFault_ok
    · exact absurd hrej (DefaultFault.not_rejection hc)
  · refine ⟨fun hok => ?_, fun _ => by simp, fun hfault => ?_⟩
    · exact absurd (hok ▸ hc) not_rejection_ok
    · exact absurd hc (DefaultFault.not_rejection hfault)

/-! ### The write sets -/

/-- What command `i` may write between `s` and `t`, as R33 lists it: the difference names the command. -/
structure WithinWriteSet (i : Instr) (s t : State) : Prop where
  frame : t.fb ≠ s.fb ∨ t.blen ≠ s.blen →
    i = .clrb ∨ i = .csum ∨ (∃ w v, i = .put w v) ∨ ∃ p, i = .build p ∨ i = .encode p
  symbols : t.symbols ≠ s.symbols → i = .sym ∨ ∃ p, i = .encode p
  pulses : t.pulses ≠ s.pulses → i = .pulse ∨ ∃ p, i = .encode p
  cfg : t.cfg = s.cfg
  pending : t.pending = s.pending
  resets : t.resets = s.resets

theorem Succeeds.withinWriteSet {s t : State} {i : Instr} (h : Succeeds s t i) : WithinWriteSet i s t := by
  cases i with
  | nop => obtain rfl := h; constructor <;> simp
  | clrb => obtain rfl := h; constructor <;> simp
  | put w v => obtain ⟨_, rfl⟩ := h; constructor <;> simp
  | csum => obtain ⟨_, rfl⟩ := h; constructor <;> simp
  | build p => obtain ⟨P, _, _, rfl⟩ := h; constructor <;> simp
  | sym => obtain ⟨_, rfl⟩ := h; constructor <;> simp
  | pulse => obtain ⟨_, rfl⟩ := h; constructor <;> simp
  | encode p => obtain ⟨P, _, _, rfl⟩ := h; constructor <;> simp
  | rdf j => obtain ⟨_, rfl⟩ := h; constructor <;> simp
  | rds j => obtain ⟨_, _, rfl⟩ := h; constructor <;> simp
  | rdp j => obtain ⟨_, _, rfl⟩ := h; constructor <;> simp
  | rdst => obtain rfl := h; constructor <;> simp

theorem exec_withinWriteSet {i : Instr} {s t : State} (h : exec i s = .next t) : WithinWriteSet i s t := by
  obtain ⟨_, hsucc | ⟨c, _, _, rfl⟩ | ⟨c, _, p, rfl | rfl, rfl⟩⟩ := exec_cases h
  · exact hsucc.withinWriteSet
  · constructor <;> simp
  · constructor <;> simp
  · constructor <;> simp

/-- Settles O31: each command writes within its write set. -/
theorem onlyTheseCommandsWrite : Obligations.OnlyTheseCommandsWrite := by
  intro i s t h
  obtain ⟨hframe, hsymbols, hpulses, hcfg, hpending, hresets⟩ := exec_withinWriteSet h
  exact ⟨hframe, hsymbols, hpulses, hcfg, hpending, hresets⟩

/-- Settles O35: no command's write set holds the configuration, and neither a malformed word nor a reset touches it. -/
theorem stepKeepsTheConfiguration : Obligations.StepKeepsTheConfiguration := by
  intro s t h
  obtain ⟨_, ⟨_, rfl⟩ | ⟨w, rest, i, _, _, he⟩ | ⟨w, rest, _, _, _, rfl⟩ | ⟨e, rest, _, _, rfl⟩⟩ := step_cases h
  · rfl
  · exact (exec_withinWriteSet he).cfg
  · exact respond_cfg ..
  · exact resetBlock_cfg _

end Sys2Proof.Machine
end

section
/-! The block's invariant `State.Inv` (R22, R23, R26, R61): each operation on the state keeps it, so every command and every
step does. -/

namespace Sys2Proof.Machine

/-! ### The invariant and the operations on the state -/

/-- While neither buffer is valid, the invariant is about the frame and the response alone. -/
theorem State.inv_of_not_valid {s : State} (hblen : s.blen.toNat ≤ 72)
    (htail : ∀ k, s.blen.toNat ≤ k → s.fb.getLsbD k = false) (hsv : s.sv = false) (hpv : s.pv = false)
    (hdata : ∀ r, s.response = some r → r.code ≠ .ok → r.data = 0) : s.Inv where
  blen_le := hblen
  tail_zero := htail
  symbols_valid h := by simp [hsv] at h
  pulses_valid h := by simp [hpv] at h
  fault_data := hdata

/-- A full frame has no bits above `BLEN`. -/
theorem tail_zero_of_full {s : State} (hb : s.blen.toNat = 72) (k : Nat) (hk : s.blen.toNat ≤ k) :
    s.fb.getLsbD k = false :=
  BitVec.getLsbD_of_ge _ _ (hb ▸ hk)

/-- `BUILD` always fills the frame (R107). -/
theorem buildFrame_blen {s : State} (hw : s.cfg.wf = true) (P : Params) : (s.buildFrame P).blen.toNat = 72 :=
  (appendChecksum_spec (packed_spec hw P).1).1

namespace State.Inv

variable {s : State}

theorem withPending (h : s.Inv) (rest : List HostEvent) : State.Inv { s with pending := rest } := { h with }

theorem respond (h : s.Inv) {c : RespCode} {d : BitVec 16} (hd : c ≠ .ok → d = 0) : (s.respond c d).Inv :=
  { h with
    fault_data := by
      rintro r hr hc
      obtain rfl := Option.some.inj hr
      exact hd hc }

theorem respondUnrecorded (h : s.Inv) (d : BitVec 16) : (s.respondUnrecorded d).Inv :=
  { h with
    fault_data := by
      rintro r hr hc
      obtain rfl := Option.some.inj hr
      exact absurd rfl hc }

theorem clearFrame (h : s.Inv) : s.clearFrame.Inv :=
  inv_of_not_valid (by simp) (by simp) (clearFrame_sv s) (clearFrame_pv s) h.fault_data

/-- An append that fits fills bits below the new `BLEN` only (R92, R23). -/
theorem append_clearValid (h : s.Inv) {w v : Nat} (hfit : s.blen.toNat + w ≤ 72) : (s.append w v).clearValid.Inv := by
  have hb : (s.append w v).clearValid.blen.toNat = s.blen.toNat + w := append_blen_toNat s w v hfit
  refine inv_of_not_valid (hb ▸ hfit) (fun k hk => ?_) (clearValid_sv _) (clearValid_pv _) h.fault_data
  rw [hb] at hk
  rw [clearValid_fb, append_fb_getLsbD s w v k hfit, if_neg (by omega)]
  exact h.tail_zero k (by omega)

theorem appendChecksum_clearValid (h : s.Inv) (hb : s.blen.toNat = 64) : s.appendChecksum.clearValid.Inv :=
  have hfull := (appendChecksum_spec hb).1
  inv_of_not_valid hfull.le (tail_zero_of_full hfull) (clearValid_sv _) (clearValid_pv _) h.fault_data

theorem buildFrame (h : s.Inv) (hw : s.cfg.wf = true) (P : Params) : (s.buildFrame P).Inv :=
  have hfull := buildFrame_blen hw P
  inv_of_not_valid hfull.le (tail_zero_of_full hfull) (buildFrame_sv P s) (buildFrame_pv P s)
    ((buildFrame_response P s).symm ▸ h.fault_data)

/-- `S` becomes `symbols(F)` at the moment `SV` is set, and `PV` is cleared with the old `S` (R26). -/
theorem makeSymbols (h : s.Inv) (hb : s.blen.toNat = 72) : s.makeSymbols.Inv where
  blen_le := by simp [hb]
  tail_zero := by simpa using h.tail_zero
  symbols_valid _ := by simp [hb]
  pulses_valid := by simp
  fault_data := by simpa using h.fault_data

/-- `PB` becomes `pulses(S)` at the moment `PV` is set (R26). -/
theorem makePulses (h : s.Inv) (hs : s.sv = true) : s.makePulses.Inv where
  blen_le := by simpa using h.blen_le
  tail_zero := by simpa using h.tail_zero
  symbols_valid := by simpa using h.symbols_valid
  pulses_valid _ := by simp [hs]
  fault_data := by simpa using h.fault_data

end State.Inv

theorem resetBlock_inv (s : State) : (resetBlock s).Inv :=
  State.inv_of_not_valid (by simp) (by simp) (resetBlock_sv s) (resetBlock_pv s) (by simp)

/-! ### Commands and steps -/

theorem Succeeds.inv {s t : State} {i : Instr} (h : Succeeds s t i) (hw : s.cfg.wf = true) (hs : s.Inv) : t.Inv := by
  have hok : ∀ {d : BitVec 16}, RespCode.ok ≠ .ok → d = 0 := fun hne => absurd rfl hne
  cases i with
  | nop => obtain rfl := h; exact hs.respond hok
  | clrb => obtain rfl := h; exact hs.clearFrame.respond hok
  | put w v => obtain ⟨⟨_, _, hfit⟩, rfl⟩ := h; exact (hs.append_clearValid hfit).respond hok
  | csum => obtain ⟨hb, rfl⟩ := h; exact (hs.appendChecksum_clearValid hb).respond hok
  | build p => obtain ⟨P, _, _, rfl⟩ := h; exact (hs.buildFrame hw P).respond hok
  | sym => obtain ⟨hb, rfl⟩ := h; exact (hs.makeSymbols hb).respond hok
  | pulse => obtain ⟨hv, rfl⟩ := h; exact (hs.makePulses hv).respond hok
  | encode p =>
    obtain ⟨P, _, _, rfl⟩ := h
    exact (((hs.buildFrame hw P).makeSymbols (buildFrame_blen hw P)).makePulses (makeSymbols_sv _)).respond hok
  | rdf j => obtain ⟨_, rfl⟩ := h; exact hs.respond hok
  | rds j => obtain ⟨_, _, rfl⟩ := h; exact hs.respond hok
  | rdp j => obtain ⟨_, _, rfl⟩ := h; exact hs.respond hok
  | rdst => obtain rfl := h; exact hs.respondUnrecorded _

theorem exec_keeps_inv {i : Instr} {s t : State} (h : exec i s = .next t) (hs : s.Inv) : t.Inv := by
  obtain ⟨hw, hsucc | ⟨c, _, _, rfl⟩ | ⟨c, _, _, _, rfl⟩⟩ := exec_cases h
  · exact hsucc.inv hw hs
  · exact hs.respond fun _ => rfl
  · exact hs.clearFrame.respond fun _ => rfl

/-- Settles O34: an idle step changes nothing, a command and a malformed word keep the invariant operation by operation, and a
reset makes it anew. -/
theorem stepKeepsTheInvariant : Obligations.StepKeepsTheInvariant := by
  intro s t hs h
  obtain ⟨_, ⟨_, rfl⟩ | ⟨w, rest, i, _, _, he⟩ | ⟨w, rest, _, _, _, rfl⟩ | ⟨e, rest, _, _, rfl⟩⟩ := step_cases h
  · exact hs
  · exact exec_keeps_inv he (hs.withPending rest)
  · exact (hs.withPending rest).respond fun _ => rfl
  · exact resetBlock_inv _

/-- Settles O33: the reset frame is empty and nothing is valid; the default configuration's conditions are evaluated. -/
theorem resetHasTheInvariant : Obligations.ResetHasTheInvariant :=
  ⟨State.inv_of_not_valid (by decide) (by simp [State.reset]) rfl rfl nofun, by decide⟩

/-- Settles O37: `State.reset` has these values as written. -/
theorem resetValues : Obligations.ResetValues := ⟨rfl, rfl, rfl, rfl, rfl, rfl⟩

end Sys2Proof.Machine
end

section
/-! The relation `SameToHost` (R24, R25, R31): each operation on the state keeps it, and so two states the host cannot tell
apart have outcomes it cannot tell apart, command by command. -/

namespace Sys2Proof.Machine

/-! ### The relation and the operations on the state -/

namespace SameToHost

variable {s t : State}

theorem withPending (h : SameToHost s t) (rest : List HostEvent) :
    SameToHost { s with pending := rest } { t with pending := rest } := { h with pending := rfl }

theorem respond (h : SameToHost s t) (c : RespCode) (d : BitVec 16) : SameToHost (s.respond c d) (t.respond c d) :=
  { h with lasterr := rfl, response := rfl }

theorem respondUnrecorded (h : SameToHost s t) (d : BitVec 16) :
    SameToHost (s.respondUnrecorded d) (t.respondUnrecorded d) :=
  { h with response := rfl }

theorem clearValid (h : SameToHost s t) : SameToHost s.clearValid t.clearValid :=
  { h with sv := rfl, pv := rfl, symbols := nofun, pulses := nofun }

theorem clearFrame (h : SameToHost s t) : SameToHost s.clearFrame t.clearFrame :=
  { h with fb := rfl, blen := rfl, sv := rfl, pv := rfl, symbols := nofun, pulses := nofun }

theorem append (h : SameToHost s t) (w v : Nat) : SameToHost (s.append w v) (t.append w v) :=
  { h with
    fb := by simp [h.fb, h.blen]
    blen := by simp [h.blen] }

theorem appendChecksum (h : SameToHost s t) : SameToHost s.appendChecksum t.appendChecksum := by
  unfold State.appendChecksum
  rw [h.cfg, h.fb]
  exact (h.append 4 0).append 4 _

theorem appendFields (h : SameToHost s t) (P : Params) (b : ByteLayout) :
    SameToHost (s.appendFields P b) (t.appendFields P b) := by
  unfold State.appendFields
  induction b generalizing s t with
  | nil => exact h
  | cons e es ih =>
    rw [List.foldl_cons, List.foldl_cons, h.cfg]
    exact ih (h.append e.width _)

theorem foldl_appendFields (h : SameToHost s t) (P : Params) (l : List ByteLayout) :
    SameToHost (l.foldl (State.appendFields P) s) (l.foldl (State.appendFields P) t) := by
  induction l generalizing s t with
  | nil => exact h
  | cons b bs ih => exact ih (h.appendFields P b)

theorem buildFrame (h : SameToHost s t) (P : Params) : SameToHost (s.buildFrame P) (t.buildFrame P) := by
  unfold State.buildFrame
  rw [h.cfg]
  exact (h.clearFrame.foldl_appendFields P _).appendChecksum

/-- `SYM` writes `S` from the frame alone, whatever `S` held. -/
theorem makeSymbols (h : SameToHost s t) : SameToHost s.makeSymbols t.makeSymbols where
  cfg := by simp [h.cfg]
  fb := by simp [h.fb]
  blen := by simp [h.blen]
  sv := by simp
  pv := by simp
  lasterr := by simp [h.lasterr]
  response := by simp [h.response]
  pending := by simp [h.pending]
  symbols _ := by simp [h.fb]
  pulses := by simp

/-- `PULSE` writes `PB` from `S`, and only while `S` is valid. -/
theorem makePulses (h : SameToHost s t) (hs : s.sv = true) : SameToHost s.makePulses t.makePulses where
  cfg := by simp [h.cfg]
  fb := by simp [h.fb]
  blen := by simp [h.blen]
  sv := by simp [h.sv]
  pv := by simp
  lasterr := by simp [h.lasterr]
  response := by simp [h.response]
  pending := by simp [h.pending]
  symbols _ := by simp [h.symbols hs]
  pulses _ := by simp [h.cfg, h.symbols hs]

/-- A reset writes unreadable free values to `S` and `PB`, whatever their index (R31). -/
theorem resetBlock (h : SameToHost s t) : SameToHost (resetBlock s) (resetBlock t) where
  cfg := by simp [h.cfg]
  fb := by simp
  blen := by simp
  sv := by simp
  pv := by simp
  lasterr := by simp
  response := by simp
  pending := by simp [h.pending]
  symbols := by simp
  pulses := by simp

theorem statusWord (h : SameToHost s t) : s.statusWord = t.statusWord := by
  simp only [State.statusWord, h.lasterr, h.pv, h.sv, h.blen]

end SameToHost

/-! ### Outcomes the host cannot tell apart -/

/-- `SameToHost` on outcomes: next states it cannot tell apart, or the same refusal. No outcome is a fault (R160). -/
inductive SameOutcome : StepResult → StepResult → Prop
  | next {s t : State} (h : SameToHost s t) : SameOutcome (.next s) (.next t)
  | refused (r : Refusal) : SameOutcome (.refused r) (.refused r)

namespace SameOutcome

theorem exists_next {o o' : StepResult} {s' : State} (h : SameOutcome o o') (ho : o = .next s') :
    ∃ t', o' = .next t' ∧ SameToHost s' t' := by
  cases h with
  | next h => cases ho; exact ⟨_, rfl, h⟩
  | refused r => cases ho

theorem ite {p : Prop} [Decidable p] {a a' b b' : StepResult} (ha : p → SameOutcome a a') (hb : ¬ p → SameOutcome b b') :
    SameOutcome (if p then a else b) (if p then a' else b') := by
  by_cases hp : p
  · simpa only [if_pos hp] using ha hp
  · simpa only [if_neg hp] using hb hp

variable {s t : State}

theorem withConfig (h : SameToHost s t) {k k' : StepResult} (hk : SameOutcome k k') :
    SameOutcome (withConfig s k) (withConfig t k') := by
  unfold Machine.withConfig
  rw [h.cfg]
  exact .ite (fun _ => hk) fun _ => .refused _

theorem succeed (h : SameToHost s t) (d : BitVec 16) : SameOutcome (succeed s d) (succeed t d) := .next (h.respond .ok d)

theorem raise (h : SameToHost s t) (c : RespCode) : SameOutcome (raise c s) (raise c t) := .next (h.respond c 0)

theorem reject (h : SameToHost s t) (c : RespCode) : SameOutcome (reject c s) (reject c t) :=
  .next (h.clearFrame.respond c 0)

theorem withParams (h : SameToHost s t) (p : ParamWord) {k k' : Params → StepResult}
    (hk : ∀ P, SameOutcome (k P) (k' P)) : SameOutcome (withParams p s k) (withParams p t k') := by
  unfold Machine.withParams
  rw [h.cfg]
  cases decodeParams p with
  | none => exact .reject h _
  | some P =>
    dsimp only
    cases tempField t.cfg.consts P with
    | none => exact .reject h _
    | some _ => exact hk P

end SameOutcome

/-! ### Commands and steps -/

section

variable {s t : State}

theorem execPut_sameOutcome (h : SameToHost s t) (w : BitVec 4) (v : Byte) :
    SameOutcome (execPut w v s) (execPut w v t) := by
  unfold execPut
  rw [h.blen]
  exact .withConfig h <| .ite (fun _ => .raise h _) fun _ =>
    .ite (fun _ => .raise h _) fun _ => .succeed (h.append _ _).clearValid 0

theorem execCsum_sameOutcome (h : SameToHost s t) : SameOutcome (execCsum s) (execCsum t) := by
  unfold execCsum
  rw [h.blen]
  exact .withConfig h <| .ite (fun _ => .raise h _) fun _ => .succeed h.appendChecksum.clearValid 0

theorem execSym_sameOutcome (h : SameToHost s t) : SameOutcome (execSym s) (execSym t) := by
  unfold execSym
  rw [h.blen]
  exact .withConfig h <| .ite (fun _ => .raise h _) fun _ => .succeed h.makeSymbols 0

theorem execPulse_sameOutcome (h : SameToHost s t) : SameOutcome (execPulse s) (execPulse t) := by
  unfold execPulse
  rw [← h.sv]
  exact .withConfig h <| .ite (fun hs => .succeed (h.makePulses hs) 0) fun _ => .raise h _

theorem execRdf_sameOutcome (h : SameToHost s t) (j : Byte) : SameOutcome (execRdf j s) (execRdf j t) := by
  unfold execRdf
  rw [h.blen, h.fb]
  exact .withConfig h <| .ite (fun _ => .raise h _) fun _ => .ite (fun _ => .raise h _) fun _ => .succeed h _

/-- `RDS` reads `S` only while `SV = 1` (R24). -/
theorem execRds_sameOutcome (h : SameToHost s t) (j : Byte) : SameOutcome (execRds j s) (execRds j t) := by
  unfold execRds
  refine .withConfig h ?_
  rw [← h.sv]
  by_cases hj : j.toNat ≤ 67
  · rw [dif_pos hj, dif_pos hj]
    exact .ite (fun hs => h.symbols hs ▸ .succeed h _) fun _ => .raise h _
  · rw [dif_neg hj, dif_neg hj]
    exact .raise h _

/-- `RDP` reads `PB` only while `PV = 1` (R25). -/
theorem execRdp_sameOutcome (h : SameToHost s t) (j : Byte) : SameOutcome (execRdp j s) (execRdp j t) := by
  unfold execRdp
  refine .withConfig h ?_
  rw [← h.pv]
  by_cases hj : j.toNat ≤ 139
  · rw [dif_pos hj, dif_pos hj]
    exact .ite (fun hp => h.pulses hp ▸ .succeed h _) fun _ => .raise h _
  · rw [dif_neg hj, dif_neg hj]
    exact .raise h _

theorem execRdst_sameOutcome (h : SameToHost s t) : SameOutcome (execRdst s) (execRdst t) := by
  unfold execRdst
  rw [h.statusWord]
  exact .withConfig h <| .next (h.respondUnrecorded _)

theorem exec_sameOutcome (h : SameToHost s t) (i : Instr) : SameOutcome (exec i s) (exec i t) := by
  cases i with
  | nop => exact .withConfig h (.succeed h 0)
  | clrb => exact .withConfig h (.succeed h.clearFrame 0)
  | put w v => exact execPut_sameOutcome h w v
  | csum => exact execCsum_sameOutcome h
  | build p => exact .withConfig h (.withParams h p fun P => .succeed (h.buildFrame P) 0)
  | sym => exact execSym_sameOutcome h
  | pulse => exact execPulse_sameOutcome h
  | encode p =>
    exact .withConfig h <| .withParams h p fun P => .succeed ((h.buildFrame P).makeSymbols.makePulses (makeSymbols_sv _)) 0
  | rdf j => exact execRdf_sameOutcome h j
  | rds j => exact execRds_sameOutcome h j
  | rdp j => exact execRdp_sameOutcome h j
  | rdst => exact execRdst_sameOutcome h

/-- Both states take the same event, and it has outcomes the host cannot tell apart. -/
theorem step_sameOutcome (h : SameToHost s t) : SameOutcome (step s) (step t) := by
  unfold step fetch
  refine .withConfig h ?_
  rw [← h.pending]
  cases s.pending with
  | nil => exact .next h
  | cons e rest =>
    have hrest := h.withPending rest
    cases e with
    | command w =>
      simp only [fetchWord]
      cases decode w with
      | command i => exact exec_sameOutcome hrest i
      | malformed _ => exact .withConfig hrest (.raise hrest _)
    | reset => exact .next hrest.resetBlock
    | commandCutOff _ => exact .next hrest.resetBlock

end

/-- Settles O36: steps from two such states have outcomes the host cannot tell apart, and the response is part of what it can
tell. -/
theorem unobservableBuffersNeverMatter : Obligations.UnobservableBuffersNeverMatter := by
  intro s t s' h hstep
  obtain ⟨t', ht', hsame⟩ := (step_sameOutcome h).exists_next hstep
  exact ⟨t', ht', hsame, hsame.response⟩

end Sys2Proof.Machine
end

section
/-! The commands and the state they see: a step runs the command of the oldest pending word (R50, R53), and a read command
writes nothing that it reads (R47). -/

namespace Sys2Proof.Machine

/-! ### Taking the oldest pending word -/

theorem fetch_of_command {s : State} {w : Word} {rest : List HostEvent} (hp : s.pending = .command w :: rest) :
    fetch s = fetchWord w { s with pending := rest } := by
  simp only [fetch, hp]

theorem fetchWord_of_command {w : Word} {i : Instr} (hd : decode w = .command i) (s : State) : fetchWord w s = .run i s := by
  simp only [fetchWord, hd]

/-- Settles O7: the configuration is well-formed, so the step is what it fetches, the decoded command. -/
theorem stepRunsTheDecodedCommand : Obligations.StepRunsTheDecodedCommand := by
  intro s w rest i hw hp hd
  rw [step, withConfig_of_wf hw, fetch_of_command hp, fetchWord_of_command hd]

/-! ### The read commands -/

/-- A read other than `RDST` only records and answers, also when it faults (R171); `RDST` only answers. -/
theorem exec_cases_of_read {i : Instr} {s t : State} (hi : isRead i = true) (h : exec i s = .next t) :
    (i ≠ .rdst ∧ ∃ c d, t = s.respond c d) ∨ (i = .rdst ∧ t = s.respondUnrecorded s.statusWord) := by
  obtain ⟨_, hsucc | ⟨c, _, hne, rfl⟩ | ⟨_, _, p, rfl | rfl, _⟩⟩ := exec_cases h
  · cases i with
    | rdf j => obtain ⟨_, rfl⟩ := hsucc; exact .inl ⟨nofun, _, _, rfl⟩
    | rds j => obtain ⟨_, _, rfl⟩ := hsucc; exact .inl ⟨nofun, _, _, rfl⟩
    | rdp j => obtain ⟨_, _, rfl⟩ := hsucc; exact .inl ⟨nofun, _, _, rfl⟩
    | rdst => exact .inr ⟨rfl, hsucc⟩
    | _ => cases hi
  · exact .inl ⟨hne, c, 0, rfl⟩
  · cases hi
  · cases hi

/-- A read other than `RDST` sees neither `LASTERR` nor the last response, and it overwrites both. -/
theorem exec_respond_of_read {i : Instr} (hi : isRead i = true) (hne : i ≠ .rdst) (s : State) (c : RespCode)
    (d : BitVec 16) : exec i (s.respond c d) = exec i s := by
  cases i with
  | rdf j => rfl
  | rds j => rfl
  | rdp j => rfl
  | rdst => exact absurd rfl hne
  | _ => cases hi

/-- `RDST` does not see the last response, and it overwrites it. -/
theorem exec_rdst_respondUnrecorded (s : State) (d : BitVec 16) : exec .rdst (s.respondUnrecorded d) = exec .rdst s := rfl

/-- Settles O32: what a read writes, the same read does not see, so it ends at the second state as it ended at the first. -/
theorem readsAreIdempotent : Obligations.ReadsAreIdempotent := by
  intro i s t hi h
  obtain ⟨hne, c, d, rfl⟩ | ⟨rfl, rfl⟩ := exec_cases_of_read hi h
  · exact ⟨rfl, fun hrdst => absurd hrdst hne, (exec_respond_of_read hi hne s c d).trans h⟩
  · exact ⟨rfl, fun _ => rfl, (exec_rdst_respondUnrecorded s _).trans h⟩

end Sys2Proof.Machine
end

section
/-! The command word and its fields (R60): a word is of a format with given operands exactly when its fields say so. From this the
decoder and the encoder are inverse (R62 to R66), the rows of R63 select the words of their commands, and the operands are the
fields of R60 and R68. -/

namespace Sys2Proof

/-! ### Words as concatenations of fields -/

theorem append_eq_append_iff {m n : Nat} {a c : BitVec m} {b d : BitVec n} : a ++ b = c ++ d ↔ a = c ∧ b = d := by
  constructor
  · intro h
    have hhi := congrArg (BitVec.extractLsb' n m) h
    have hlo := congrArg (BitVec.extractLsb' 0 n) h
    simp only [BitVec.extractLsb'_append_eq_left, BitVec.extractLsb'_append_eq_right] at hhi hlo
    exact ⟨hhi, hlo⟩
  · rintro ⟨rfl, rfl⟩
    rfl

/-- A field of a word is a concatenation exactly when its two parts are. -/
theorem extractLsb'_eq_append_iff {l m n : Nat} (x : BitVec l) (s : Nat) (hi : BitVec m) (lo : BitVec n) :
    x.extractLsb' s (m + n) = hi ++ lo ↔ x.extractLsb' (s + n) m = hi ∧ x.extractLsb' s n = lo := by
  rw [← BitVec.extractLsb'_append_extractLsb'_eq_extractLsb' rfl, append_eq_append_iff]

theorem eq_append_iff {m n : Nat} (x : BitVec (m + n)) (hi : BitVec m) (lo : BitVec n) :
    x = hi ++ lo ↔ x.extractLsb' n m = hi ∧ x.extractLsb' 0 n = lo := by
  have h := extractLsb'_eq_append_iff x 0 hi lo
  rwa [BitVec.extractLsb'_eq_self, Nat.zero_add] at h

/-- Format `Z` of R60. -/
theorem eq_formatZ_iff (c : Word) (op : BitVec 4) :
    c = op ++ 0#28 ↔ c.extractLsb' 28 4 = op ∧ c.extractLsb' 0 28 = 0 :=
  eq_append_iff (m := 4) (n := 28) c op 0

/-- A word with an opcode, a field of `k` bits above its operand bits, and `n` operand bits. -/
theorem eq_opcode_append_iff {k n : Nat} (c : BitVec (4 + k + n)) (op : BitVec 4) (z : BitVec k) (b : BitVec n) :
    c = op ++ z ++ b ↔ c.extractLsb' (n + k) 4 = op ∧ c.extractLsb' n k = z ∧ c.extractLsb' 0 n = b := by
  rw [eq_append_iff, extractLsb'_eq_append_iff, and_assoc]

/-- Format `IDX` of R60. -/
theorem eq_formatIDX_iff (c : Word) (op : BitVec 4) (j : Byte) :
    c = op ++ 0#20 ++ j ↔ c.extractLsb' 28 4 = op ∧ c.extractLsb' 8 20 = 0 ∧ c.extractLsb' 0 8 = j :=
  eq_opcode_append_iff (k := 20) (n := 8) c op 0 j

/-- Format `WV` of R60. -/
theorem eq_formatWV_iff (c : Word) (op w : BitVec 4) (v : Byte) :
    c = op ++ w ++ 0#16 ++ v ↔
      c.extractLsb' 28 4 = op ∧ c.extractLsb' 24 4 = w ∧ c.extractLsb' 8 16 = 0 ∧ c.extractLsb' 0 8 = v := by
  have h := eq_append_iff (m := 24) (n := 8) c (op ++ w ++ 0#16) v
  rwa [extractLsb'_eq_append_iff (m := 8) (n := 16), extractLsb'_eq_append_iff (m := 4) (n := 4), and_assoc, and_assoc] at h

theorem extractLsb'_one {l : Nat} (x : BitVec l) (k : Nat) : x.extractLsb' k 1 = BitVec.ofBool (x.getLsbD k) := by
  apply BitVec.eq_of_getLsbD_eq
  intro j hj
  obtain rfl : j = 0 := by omega
  simp

/-- The operand bits spell a parameter word exactly when its fields are those R68 places. -/
theorem extractLsb'_eq_bits_iff (c : Word) (p : ParamWord) : c.extractLsb' 0 21 = p.bits ↔ paramWordOf c = p := by
  obtain ⟨temp, mode, power, fan, vv, hv⟩ := p
  rw [ParamWord.bits, paramWordOf, ParamWord.mk.injEq, extractLsb'_eq_append_iff (m := 13) (n := 8),
    extractLsb'_eq_append_iff (m := 10) (n := 3), extractLsb'_eq_append_iff (m := 9) (n := 1),
    extractLsb'_eq_append_iff (m := 7) (n := 2), extractLsb'_eq_append_iff (m := 3) (n := 4), extractLsb'_one,
    BitVec.ofBool_eq_iff_eq]
  constructor
  · rintro ⟨⟨⟨⟨⟨hhv, hvv⟩, hfan⟩, hpower⟩, hmode⟩, htemp⟩
    exact ⟨htemp, hmode, hpower, hfan, hvv, hhv⟩
  · rintro ⟨htemp, hmode, hpower, hfan, hvv, hhv⟩
    exact ⟨⟨⟨⟨⟨hhv, hvv⟩, hfan⟩, hpower⟩, hmode⟩, htemp⟩

/-- Format `PW` of R60, with the parameter word of R68. -/
theorem eq_formatPW_iff (c : Word) (op : BitVec 4) (p : ParamWord) :
    c = op ++ 0#7 ++ p.bits ↔ c.extractLsb' 28 4 = op ∧ c.extractLsb' 21 7 = 0 ∧ paramWordOf c = p := by
  rw [← extractLsb'_eq_bits_iff]
  exact eq_opcode_append_iff (k := 7) (n := 21) c op 0 p.bits

/-! ### The decoder, format by format -/

theorem ite_command_eq_command_iff {p : Prop} [Decidable p] {i j : Instr} {why : Malformed} :
    (if p then Decoded.command j else .malformed why) = .command i ↔ p ∧ j = i := by
  split <;> simp [*]

theorem ite_malformed_eq_command_iff {p : Prop} [Decidable p] {i : Instr} {d : Decoded} {why : Malformed} :
    (if p then .malformed why else d) = .command i ↔ ¬ p ∧ d = .command i := by
  split <;> simp [*]

theorem decodeNoOperand_eq_command_iff {c : Word} {i j : Instr} :
    decodeNoOperand c j = .command i ↔ c.extractLsb' 0 28 = 0 ∧ j = i :=
  ite_command_eq_command_iff

theorem decodePut_eq_command_iff {c : Word} {i : Instr} :
    decodePut c = .command i ↔
      c.extractLsb' 8 16 = 0 ∧ (Instr.put (c.extractLsb' 24 4) (c.extractLsb' 0 8)).wf = true
        ∧ .put (c.extractLsb' 24 4) (c.extractLsb' 0 8) = i := by
  rw [decodePut, ite_malformed_eq_command_iff, ite_command_eq_command_iff, not_ne_iff]

theorem decodeParamWord_eq_command_iff {c : Word} {mk : ParamWord → Instr} {i : Instr} :
    decodeParamWord c mk = .command i ↔ c.extractLsb' 21 7 = 0 ∧ mk (paramWordOf c) = i := by
  rw [decodeParamWord, ite_malformed_eq_command_iff, not_ne_iff, Decoded.command.injEq]

theorem decodeIndex_eq_command_iff {c : Word} {mk : Byte → Instr} {i : Instr} :
    decodeIndex c mk = .command i ↔
      c.extractLsb' 8 20 = 0 ∧ (mk (c.extractLsb' 0 8)).wf = true ∧ mk (c.extractLsb' 0 8) = i := by
  rw [decodeIndex, ite_malformed_eq_command_iff, ite_command_eq_command_iff, not_ne_iff]

section
variable {c : Word} {op : BitVec 4} (hop : c.extractLsb' 28 4 = op)
include hop

theorem encode_of_decodeNoOperand {i j : Instr} (henc : encode j = op ++ 0#28) (hwf : j.wf = true)
    (h : decodeNoOperand c j = .command i) : encode i = c ∧ i.wf = true := by
  obtain ⟨hz, rfl⟩ := decodeNoOperand_eq_command_iff.1 h
  exact ⟨henc.trans ((eq_formatZ_iff c op).2 ⟨hop, hz⟩).symm, hwf⟩

theorem encode_of_decodeParamWord {i : Instr} {mk : ParamWord → Instr} (henc : ∀ p, encode (mk p) = op ++ 0#7 ++ p.bits)
    (hwf : ∀ p, (mk p).wf = true) (h : decodeParamWord c mk = .command i) : encode i = c ∧ i.wf = true := by
  obtain ⟨hz, rfl⟩ := decodeParamWord_eq_command_iff.1 h
  exact ⟨(henc _).trans ((eq_formatPW_iff c op _).2 ⟨hop, hz, rfl⟩).symm, hwf _⟩

theorem encode_of_decodeIndex {i : Instr} {mk : Byte → Instr} (henc : ∀ j, encode (mk j) = op ++ 0#20 ++ j)
    (h : decodeIndex c mk = .command i) : encode i = c ∧ i.wf = true := by
  obtain ⟨hz, hwf, rfl⟩ := decodeIndex_eq_command_iff.1 h
  exact ⟨(henc _).trans ((eq_formatIDX_iff c op _).2 ⟨hop, hz, rfl⟩).symm, hwf⟩

end

theorem encode_of_decodePut {c : Word} {i : Instr} (hop : c.extractLsb' 28 4 = 0x2) (h : decodePut c = .command i) :
    encode i = c ∧ i.wf = true := by
  obtain ⟨hz, hwf, rfl⟩ := decodePut_eq_command_iff.1 h
  exact ⟨((eq_formatWV_iff c _ _ _).2 ⟨hop, rfl, hz, rfl⟩).symm, hwf⟩

/-! ### The decoder and the encoder are inverse -/

/-- Settles O2: the opcode and the fields the decoder checked and read are all the bits of the word. -/
theorem encodeOfDecodeIsTheWord : Obligations.EncodeOfDecodeIsTheWord := by
  intro c i h
  unfold decode at h
  split at h <;> rename_i hop
  · exact encode_of_decodeNoOperand (BitVec.eq_of_toNat_eq hop) rfl rfl h
  · exact encode_of_decodeNoOperand (BitVec.eq_of_toNat_eq hop) rfl rfl h
  · exact encode_of_decodePut (BitVec.eq_of_toNat_eq hop) h
  · exact encode_of_decodeNoOperand (BitVec.eq_of_toNat_eq hop) rfl rfl h
  · exact encode_of_decodeParamWord (BitVec.eq_of_toNat_eq hop) (fun _ => rfl) (fun _ => rfl) h
  · exact encode_of_decodeNoOperand (BitVec.eq_of_toNat_eq hop) rfl rfl h
  · exact encode_of_decodeNoOperand (BitVec.eq_of_toNat_eq hop) rfl rfl h
  · exact encode_of_decodeParamWord (BitVec.eq_of_toNat_eq hop) (fun _ => rfl) (fun _ => rfl) h
  · exact encode_of_decodeIndex (BitVec.eq_of_toNat_eq hop) (fun _ => rfl) h
  · exact encode_of_decodeIndex (BitVec.eq_of_toNat_eq hop) (fun _ => rfl) h
  · exact encode_of_decodeIndex (BitVec.eq_of_toNat_eq hop) (fun _ => rfl) h
  · exact encode_of_decodeNoOperand (BitVec.eq_of_toNat_eq hop) rfl rfl h
  · cases h

/-- A word of format `PW` decodes to the command `mk` of its parameter word, if its opcode selects `mk`. -/
theorem decode_formatPW {c : Word} {op : BitVec 4} {mk : ParamWord → Instr} {p : ParamWord}
    (hmk : c.extractLsb' 28 4 = op → decode c = decodeParamWord c mk) (hc : c = op ++ 0#7 ++ p.bits) :
    decode c = .command (mk p) := by
  obtain ⟨hop, hz, hp⟩ := (eq_formatPW_iff c op p).1 hc
  exact (hmk hop).trans (decodeParamWord_eq_command_iff.2 ⟨hz, congrArg mk hp⟩)

/-- A word of format `IDX` decodes to the command `mk` of its index, if its opcode selects `mk` and the index is in range. -/
theorem decode_formatIDX {c : Word} {op : BitVec 4} {mk : Byte → Instr} {j : Byte}
    (hmk : c.extractLsb' 28 4 = op → decode c = decodeIndex c mk) (hc : c = op ++ 0#20 ++ j) (hwf : (mk j).wf = true) :
    decode c = .command (mk j) := by
  obtain ⟨hop, hz, hj⟩ := (eq_formatIDX_iff c op j).1 hc
  exact (hmk hop).trans (decodeIndex_eq_command_iff.2 ⟨hz, hj.symm ▸ hwf, congrArg mk hj⟩)

theorem decode_encode_put {w : BitVec 4} {v : Byte} (hwf : (Instr.put w v).wf = true) :
    decode (encode (.put w v)) = .command (.put w v) := by
  obtain ⟨hop, hw, hz, hv⟩ := (eq_formatWV_iff (encode (.put w v)) 0x2 w v).1 rfl
  have hput : decode (encode (.put w v)) = decodePut (encode (.put w v)) := by rw [decode, hop]; rfl
  rw [hput, decodePut_eq_command_iff, hw, hv]
  exact ⟨hz, hwf, rfl⟩

/-- Settles O1: a command without operands has one word, which is evaluated; for the others the fields of the word are the
operands the format puts there, and the decoder reads them back. -/
theorem decodeOfEncodeIsTheCommand : Obligations.DecodeOfEncodeIsTheCommand := by
  intro i hwf
  cases i with
  | nop => rfl
  | clrb => rfl
  | put w v => exact decode_encode_put hwf
  | csum => rfl
  | build p => exact decode_formatPW (op := 0x4) (fun hop => by rw [decode, hop]; rfl) rfl
  | sym => rfl
  | pulse => rfl
  | encode p => exact decode_formatPW (op := 0x7) (fun hop => by rw [decode, hop]; rfl) rfl
  | rdf j => exact decode_formatIDX (op := 0x8) (fun hop => by rw [decode, hop]; rfl) rfl hwf
  | rds j => exact decode_formatIDX (op := 0x9) (fun hop => by rw [decode, hop]; rfl) rfl hwf
  | rdp j => exact decode_formatIDX (op := 0xA) (fun hop => by rw [decode, hop]; rfl) rfl hwf
  | rdst => rfl

theorem decode_eq_command_iff (c : Word) (i : Instr) : decode c = .command i ↔ encode i = c ∧ i.wf = true := by
  constructor
  · exact encodeOfDecodeIsTheWord c i
  · rintro ⟨rfl, hwf⟩
    exact decodeOfEncodeIsTheCommand i hwf

/-- Settles O5: each word is evaluated. -/
theorem specWordsDecode : Obligations.SpecWordsDecode := by
  unfold Obligations.SpecWordsDecode
  decide

/-! ### The rows of R63 and the operand fields -/

/-- Masking a field of a word is masking its two parts. -/
theorem extractLsb'_and_append_eq_iff {l m n : Nat} (x : BitVec l) (s : Nat) (maskHi hi : BitVec m) (maskLo lo : BitVec n) :
    x.extractLsb' s (m + n) &&& (maskHi ++ maskLo) = hi ++ lo ↔
      x.extractLsb' (s + n) m &&& maskHi = hi ∧ x.extractLsb' s n &&& maskLo = lo := by
  rw [← BitVec.extractLsb'_append_extractLsb'_eq_extractLsb' rfl, BitVec.and_append, append_eq_append_iff]

theorem and_append_eq_iff {m n : Nat} (x : BitVec (m + n)) (maskHi hi : BitVec m) (maskLo lo : BitVec n) :
    x &&& (maskHi ++ maskLo) = hi ++ lo ↔ x.extractLsb' n m &&& maskHi = hi ∧ x.extractLsb' 0 n &&& maskLo = lo := by
  have h := extractLsb'_and_append_eq_iff x 0 maskHi hi maskLo lo
  rwa [BitVec.extractLsb'_eq_self, Nat.zero_add] at h

/-- A mask of the opcode and the `k` bits below it tells whether the opcode is `op` and those bits are zero. -/
theorem and_mask_eq_iff {k n : Nat} (c : BitVec (4 + k + n)) (op : BitVec 4) :
    c &&& (BitVec.allOnes 4 ++ BitVec.allOnes k ++ 0#n) = op ++ 0#k ++ 0#n ↔
      c.extractLsb' (n + k) 4 = op ∧ c.extractLsb' n k = 0#k := by
  rw [and_append_eq_iff, extractLsb'_and_append_eq_iff, BitVec.and_allOnes, BitVec.and_allOnes, BitVec.and_zero,
    and_iff_left rfl]

/-- The mask of `PUT` passes the opcode and the bits `[23:8]`. -/
theorem and_putMask_eq_iff (c : Word) :
    c &&& 0xF0FFFF00 = 0x20000000 ↔ c.extractLsb' 28 4 = 0x2 ∧ c.extractLsb' 8 16 = 0 := by
  have h := and_append_eq_iff (m := 24) (n := 8) c (BitVec.allOnes 4 ++ 0#4 ++ BitVec.allOnes 16) (0x2#4 ++ 0#4 ++ 0#16) 0#8 0#8
  rwa [extractLsb'_and_append_eq_iff (m := 8) (n := 16), extractLsb'_and_append_eq_iff (m := 4) (n := 4),
    BitVec.and_allOnes, BitVec.and_allOnes, BitVec.and_zero, BitVec.and_zero, and_iff_left rfl, and_iff_left rfl] at h

theorem decode_noOperand_iff {i : Instr} (hwf : i.wf = true) (c : Word) :
    decode c = .command i ↔ c &&& 0xFFFFFFFF = encode i := by
  have hall : c &&& 0xFFFFFFFF = c := BitVec.and_allOnes
  rw [hall, decode_eq_command_iff, and_iff_left hwf, eq_comm]

theorem exists_decode_formatPW_iff {op : BitVec 4} {mk : ParamWord → Instr}
    (henc : ∀ p, encode (mk p) = op ++ 0#7 ++ p.bits) (hwf : ∀ p, (mk p).wf = true) (c : Word) :
    (∃ p, decode c = .command (mk p)) ↔ c &&& 0xFFE00000 = op ++ 0#7 ++ 0#21 := by
  refine Iff.trans ?_ (and_mask_eq_iff (k := 7) (n := 21) c op).symm
  simp only [decode_eq_command_iff, henc, hwf, and_true, eq_comm (b := c), eq_formatPW_iff]
  exact ⟨fun ⟨_, hop, hz, _⟩ => ⟨hop, hz⟩, fun ⟨hop, hz⟩ => ⟨_, hop, hz, rfl⟩⟩

theorem exists_decode_formatIDX_iff {op : BitVec 4} {mk : Byte → Instr} {bound : Nat}
    (henc : ∀ j, encode (mk j) = op ++ 0#20 ++ j) (hwf : ∀ j, (mk j).wf = decide (j.toNat ≤ bound)) (c : Word) :
    (∃ j, decode c = .command (mk j)) ↔
      c &&& 0xFFFFFF00 = op ++ 0#20 ++ 0#8 ∧ (c.extractLsb' 0 8).toNat ≤ bound := by
  refine Iff.trans ?_ (and_congr_left' (and_mask_eq_iff (k := 20) (n := 8) c op).symm)
  simp only [decode_eq_command_iff, henc, hwf, decide_eq_true_eq, eq_comm (b := c), eq_formatIDX_iff]
  constructor
  · rintro ⟨_, ⟨hop, hz, rfl⟩, hle⟩
    exact ⟨⟨hop, hz⟩, hle⟩
  · rintro ⟨⟨hop, hz⟩, hle⟩
    exact ⟨_, ⟨hop, hz, rfl⟩, hle⟩

theorem encode_put_eq_iff (w : BitVec 4) (v : Byte) (c : Word) :
    encode (.put w v) = c ↔
      c.extractLsb' 28 4 = 0x2 ∧ c.extractLsb' 24 4 = w ∧ c.extractLsb' 8 16 = 0 ∧ c.extractLsb' 0 8 = v :=
  eq_comm.trans (eq_formatWV_iff c 0x2 w v)

theorem wf_put_iff (w : BitVec 4) (v : Byte) : (Instr.put w v).wf = true ↔ 1 ≤ w.toNat ∧ w.toNat ≤ 8 := by
  simp only [Instr.wf, Bool.and_eq_true, decide_eq_true_eq]

theorem exists_decode_put_iff (c : Word) :
    (∃ w v, decode c = .command (.put w v)) ↔
      c &&& 0xF0FFFF00 = 0x20000000 ∧ 1 ≤ (c.extractLsb' 24 4).toNat ∧ (c.extractLsb' 24 4).toNat ≤ 8 := by
  simp only [decode_eq_command_iff, encode_put_eq_iff, wf_put_iff, and_putMask_eq_iff]
  constructor
  · rintro ⟨_, _, ⟨hop, rfl, hz, rfl⟩, hwidth⟩
    exact ⟨⟨hop, hz⟩, hwidth⟩
  · rintro ⟨⟨hop, hz⟩, hwidth⟩
    exact ⟨_, _, ⟨hop, rfl, hz, rfl⟩, hwidth⟩

/-- Settles O3: each row's mask passes the opcode and the must-be-zero bits of the command's format, and a word decodes to the
command when these and the operand's range are right. -/
theorem matchMaskSelectsTheCommand : Obligations.MatchMaskSelectsTheCommand := fun c =>
  ⟨decode_noOperand_iff (i := .nop) rfl c, decode_noOperand_iff (i := .clrb) rfl c, exists_decode_put_iff c,
    decode_noOperand_iff (i := .csum) rfl c, exists_decode_formatPW_iff (op := 0x4) (fun _ => rfl) (fun _ => rfl) c,
    decode_noOperand_iff (i := .sym) rfl c, decode_noOperand_iff (i := .pulse) rfl c,
    exists_decode_formatPW_iff (op := 0x7) (fun _ => rfl) (fun _ => rfl) c,
    exists_decode_formatIDX_iff (op := 0x8) (fun _ => rfl) (fun _ => rfl) c,
    exists_decode_formatIDX_iff (op := 0x9) (fun _ => rfl) (fun _ => rfl) c,
    exists_decode_formatIDX_iff (op := 0xA) (fun _ => rfl) (fun _ => rfl) c, decode_noOperand_iff (i := .rdst) rfl c⟩

theorem fields_of_formatPW {op : BitVec 4} {c : Word} {p : ParamWord} (hc : c = op ++ 0#7 ++ p.bits) :
    paramWordOf c = p ∧ c.extractLsb' 21 3 = 0 := by
  obtain ⟨_, hz, hp⟩ := (eq_formatPW_iff c op p).1 hc
  obtain ⟨_, hlow⟩ := (extractLsb'_eq_append_iff (m := 4) (n := 3) c 21 0 0).1 hz
  exact ⟨hp, hlow⟩

/-- Settles O4: a decoded command's word is its encoding, whose fields the format names. -/
theorem operandsAreTheWordsFields : Obligations.OperandsAreTheWordsFields := by
  refine fun c => ⟨fun w v h => ?_, fun p h => ?_, fun j h => ?_⟩
  · obtain ⟨_, hw, _, hv⟩ := (encode_put_eq_iff w v c).1 (encodeOfDecodeIsTheWord c _ h).1
    exact ⟨hw.symm, hv.symm⟩
  · obtain ⟨op, hc⟩ : ∃ op : BitVec 4, c = op ++ 0#7 ++ p.bits := by
      obtain h | h := h <;> exact ⟨_, (encodeOfDecodeIsTheWord c _ h).1.symm⟩
    obtain ⟨rfl, hz⟩ := fields_of_formatPW hc
    exact ⟨rfl, rfl, rfl, rfl, rfl, rfl, hz⟩
  · obtain ⟨op, hc⟩ : ∃ op : BitVec 4, c = op ++ 0#20 ++ j := by
      obtain h | h | h := h <;> exact ⟨_, (encodeOfDecodeIsTheWord c _ h).1.symm⟩
    obtain ⟨_, _, hj⟩ := (eq_formatIDX_iff c op j).1 hc
    exact hj.symm

/-! ### The reserved opcodes -/

/-- Opcodes 0xC to 0xF have no arm of the decoder (R65). -/
theorem decode_of_reservedOpcode {c : Word} (h : 0xC ≤ (c.extractLsb' 28 4).toNat) :
    decode c = .malformed .reservedOpcode := by
  unfold decode
  split
  pick_goal 13
  · rfl
  all_goals omega

end Sys2Proof
end

section
/-! What the encoding's commands answer: a malformed word takes `IllegalCommand` (R164, R65), only a read carries data (R61), and
`LDFRAME8` loads eight bytes (R81). -/

namespace Sys2Proof.Machine

theorem step_of_malformed {s : State} {w : Word} {rest : List HostEvent} {why : Malformed} (hw : s.cfg.wf = true)
    (hp : s.pending = .command w :: rest) (hd : decode w = .malformed why) :
    step s = .next (faultOnly .illegalCommand { s with pending := rest }) := by
  rw [step, withConfig_of_wf hw, fetch_of_command hp]
  simp only [fetchWord, hd]
  exact withConfig_of_wf hw _

/-- Settles O9: a reserved opcode is malformed whatever the other bits, and a malformed word takes `IllegalCommand`. -/
theorem reservedOpcodeIsIllegalCommand : Obligations.ReservedOpcodeIsIllegalCommand :=
  fun _ _ _ hw hp hop => step_of_malformed hw hp (decode_of_reservedOpcode hop)

/-! ### Data in responses -/

/-- A command that is no read succeeds with `data = 0` (R61). -/
theorem Succeeds.eq_respond_ok_zero {s t : State} {i : Instr} (h : Succeeds s t i) (hi : isRead i = false) :
    ∃ u : State, t = u.respond .ok 0 := by
  cases i with
  | nop => exact ⟨_, h⟩
  | clrb => exact ⟨_, h⟩
  | put w v => obtain ⟨_, ht⟩ := h; exact ⟨_, ht⟩
  | csum => obtain ⟨_, ht⟩ := h; exact ⟨_, ht⟩
  | build p => obtain ⟨_, _, _, ht⟩ := h; exact ⟨_, ht⟩
  | sym => obtain ⟨_, ht⟩ := h; exact ⟨_, ht⟩
  | pulse => obtain ⟨_, ht⟩ := h; exact ⟨_, ht⟩
  | encode p => obtain ⟨_, _, _, ht⟩ := h; exact ⟨_, ht⟩
  | rdf j => cases hi
  | rds j => cases hi
  | rdp j => cases hi
  | rdst => cases hi

theorem data_eq_zero_of_respond {s : State} {c : RespCode} {r : Response} (hr : (s.respond c 0).response = some r) :
    r.data = 0 := by
  obtain rfl := Option.some.inj hr
  rfl

/-- Settles O29: a fault and a rejection answer with `data = 0` themselves, and so does a success of a command that is no read. -/
theorem onlySuccessfulReadsCarryData : Obligations.OnlySuccessfulReadsCarryData := by
  intro i s t r h hr hcase
  obtain ⟨hok, hsucc⟩ | ⟨_, _, rfl⟩ | ⟨_, _, rfl⟩ := (exec_cases h).2.of_response hr
  · obtain ⟨u, rfl⟩ := hsucc.eq_respond_ok_zero (hcase.resolve_left (absurd hok))
    exact data_eq_zero_of_respond hr
  · exact data_eq_zero_of_respond hr
  · exact data_eq_zero_of_respond hr

/-! ### Loading bytes with `CLRB` and `PUT 8` -/

theorem issueAll_cons_of_next {i : Instr} {s t : State} (h : exec i s = .next t) (js : List Instr) :
    issueAll (i :: js) s = issueAll js t := by
  simp only [issueAll, h]

theorem exec_put_of_fits {s : State} {w : BitVec 4} (hw : s.cfg.wf = true) (v : Byte) (h1 : 1 ≤ w.toNat) (h8 : w.toNat ≤ 8)
    (hfit : s.blen.toNat + w.toNat ≤ 72) :
    exec (.put w v) s = .next ((s.append w.toNat v.toNat).clearValid.respond .ok 0) := by
  change execPut w v s = _
  rw [execPut, withConfig_of_wf hw, if_neg (by omega), if_neg (by omega), succeed]

/-- A byte appended at a byte boundary is the frame byte there, and the bytes below stay. -/
theorem frameBytes_append {s : State} {k : Nat} (hb : s.blen.toNat = 8 * k) (hk : k < 9) (v : Byte) :
    (List.range (k + 1)).map (frameByte (s.append 8 v.toNat).fb) = (List.range k).map (frameByte s.fb) ++ [v] := by
  have hnew : frameByte (s.append 8 v.toNat).fb k = v := by
    apply BitVec.eq_of_getLsbD_eq
    intro j hj
    rw [frameByte_getLsbD, decide_eq_true hj, Bool.true_and, append_fb_getLsbD _ _ _ _ (by omega), if_pos (by omega),
      hb, Nat.add_sub_cancel_left]
    rfl
  have hold : ∀ i ∈ List.range k, frameByte (s.append 8 v.toNat).fb i = frameByte s.fb i := by
    intro i hi
    rw [List.mem_range] at hi
    apply frameByte_ext
    intro j hj
    rw [append_fb_getLsbD _ _ _ _ (by omega), if_neg (by omega)]
  rw [List.range_succ, List.map_append, List.map_congr_left hold, List.map_singleton, hnew]

/-- `s` is `s₀` after a `CLRB` and a successful `PUT 8` of each of `bs`. -/
structure Loaded (s₀ : State) (bs : List Byte) (s : State) : Prop where
  cfg : s.cfg = s₀.cfg
  response : s.response = some ⟨.ok, 0⟩
  blen : s.blen.toNat = 8 * bs.length
  bytes : (List.range bs.length).map (frameByte s.fb) = bs
  symbols : s.symbols = s₀.symbols
  pulses : s.pulses = s₀.pulses
  sv : s.sv = false
  pv : s.pv = false

theorem loaded_nil (s : State) : Loaded s [] (s.clearFrame.respond .ok 0) := by
  constructor <;> simp

theorem Loaded.put {s₀ s : State} {bs : List Byte} (h : Loaded s₀ bs s) (hlen : bs.length < 9) (v : Byte) :
    Loaded s₀ (bs ++ [v]) ((s.append 8 v.toNat).clearValid.respond .ok 0) where
  cfg := h.cfg
  response := rfl
  blen := by
    have hb := h.blen
    rw [respond_blen, clearValid_blen, append_blen_toNat _ _ _ (by omega), hb, List.length_append, List.length_singleton]
    omega
  bytes := by
    rw [respond_fb, clearValid_fb, List.length_append, List.length_singleton, frameBytes_append h.blen hlen, h.bytes]
  symbols := h.symbols
  pulses := h.pulses
  sv := rfl
  pv := rfl

/-- Bytes that fit into the frame are loaded one after another. -/
theorem Loaded.issueAll_puts {s₀ : State} (hw : s₀.cfg.wf = true) (vs : List Byte) {s : State} {bs : List Byte}
    (h : Loaded s₀ bs s) (hlen : bs.length + vs.length ≤ 9) :
    ∃ t, issueAll (vs.map (.put 8)) s = .next t ∧ Loaded s₀ (bs ++ vs) t := by
  induction vs generalizing s bs with
  | nil => exact ⟨s, rfl, (List.append_nil bs).symm ▸ h⟩
  | cons v vs ih =>
    rw [List.length_cons] at hlen
    have hfit : s.blen.toNat + 8 ≤ 72 := by have hb := h.blen; omega
    have hput : exec (.put 8 v) s = .next ((s.append 8 v.toNat).clearValid.respond .ok 0) :=
      exec_put_of_fits (h.cfg ▸ hw) v (by decide) (by decide) hfit
    obtain ⟨t, ht, hload⟩ := ih (h.put (by omega) v) (by rw [List.length_append, List.length_singleton]; omega)
    rw [List.map_cons, issueAll_cons_of_next hput]
    exact ⟨t, ht, List.append_cons bs v vs ▸ hload⟩

/-- Settles O52: `CLRB` makes an empty frame, and the eight bytes fit into it. -/
theorem ldFrameLoadsEightBytes : Obligations.LdFrameLoadsEightBytes := by
  intro s b0 b1 b2 b3 b4 b5 b6 b7 hw
  have hclrb : exec .clrb s = .next (s.clearFrame.respond .ok 0) := withConfig_of_wf hw _
  obtain ⟨t, ht, h⟩ := (loaded_nil s).issueAll_puts hw [b0, b1, b2, b3, b4, b5, b6, b7] (Nat.le_succ 8)
  exact ⟨t, (issueAll_cons_of_next hclrb _).trans ht, h.response, h.blen, h.bytes, h.symbols, h.pulses, h.sv, h.pv⟩

end Sys2Proof.Machine
end

section
/-! The laws of the bit-field encoder (R91), and the field packing commands `CLRB` (R94) and `PUT` (R92, R93): which words reach
them, their result, their faults and their frame. -/

namespace Sys2Proof.Machine

/-! ### The bit-field encoder -/

/-- Truncation (R91): the encoder reads only the low `w` bits of the value. -/
theorem enc_mod_two_pow (v w : Nat) : enc (v % 2 ^ w) w = enc v w := by
  refine List.ext_getElem (by simp) fun j hj _ => ?_
  have hjw : j < w := enc_length _ w ▸ hj
  rw [enc_getElem, enc_getElem, Nat.testBit_mod_two_pow, decide_eq_true hjw, Bool.true_and]

/-- Split (R91): the bits from `w1` on are the low bits of the value shifted down by `w1`. -/
theorem enc_add (v w1 w2 : Nat) : enc v (w1 + w2) = enc v w1 ++ enc (v / 2 ^ w1) w2 := by
  have hbit (j : Nat) : v.testBit (w1 + j) = (v / 2 ^ w1).testBit j := by
    rw [Nat.testBit_div_two_pow, Nat.add_comm]
  simp only [enc, List.range_add, List.map_append, List.map_map, Function.comp_def, hbit]

theorem enc_zero (w : Nat) : enc 0 w = List.replicate w false :=
  List.eq_replicate_iff.2 ⟨enc_length 0 w, by simp [enc]⟩

theorem enc_allOnes (w : Nat) : enc (2 ^ w - 1) w = List.replicate w true :=
  List.eq_replicate_iff.2 ⟨enc_length _ w, by simp [enc, Nat.testBit_two_pow_sub_one]⟩

/-- Settles O40: the laws hold for every width and value; a byte value is its own remainder modulo 256. -/
theorem encoderLaws : Obligations.EncoderLaws := by
  refine ⟨fun v w _ _ _ => ⟨enc_length v w, (enc_mod_two_pow v w).symm, bitsVal_enc v w⟩, fun v hv => ?_,
    fun v w1 w2 _ _ _ _ => enc_add v w1 w2, fun w _ _ => ⟨enc_zero w, enc_allOnes w⟩, by decide⟩
  rw [bitsVal_enc, Nat.mod_eq_of_lt (by omega)]

/-! ### The words of a command -/

/-- A mask of one field of a word tells whether that field is zero. -/
theorem and_fieldMask_eq_zero_iff {m k n : Nat} (c : BitVec (m + k + n)) :
    c &&& (0#m ++ BitVec.allOnes k ++ 0#n) = 0#m ++ 0#k ++ 0#n ↔ c.extractLsb' n k = 0#k := by
  rw [and_append_eq_iff, extractLsb'_and_append_eq_iff, BitVec.and_zero, BitVec.and_allOnes, BitVec.and_zero,
    eq_self, eq_self, true_and, and_true]

/-- An operand out of range takes `IllegalCommand` in the command itself, as its word does (R66, R164). -/
theorem exec_of_operandOutOfRange {i : Instr} {s : State} (hw : s.cfg.wf = true) (hi : i.wf = false) :
    exec i s = .next (faultOnly .illegalCommand s) := by
  cases i with
  | put w v =>
    have hwidth : ¬ (1 ≤ w.toNat ∧ w.toNat ≤ 8) := (wf_put_iff w v).not.1 (Bool.eq_false_iff.1 hi)
    exact (withConfig_of_wf hw _).trans (if_pos (by omega))
  | rdf j => exact (withConfig_of_wf hw _).trans (if_pos (by simpa [Instr.wf] using hi))
  | rds j => exact (withConfig_of_wf hw _).trans (dif_neg (by simpa [Instr.wf] using hi))
  | rdp j => exact (withConfig_of_wf hw _).trans (dif_neg (by simpa [Instr.wf] using hi))
  | _ => cases hi

/-- The words of one opcode reach its command as `WordsOf` says, if the decoder first checks the must-be-zero bits and then the
range of the operand (R64, R66). -/
theorem wordsOf_of_decode {op : BitVec 4} {mustBeZero : Word} {mk : Word → Instr}
    (hdec : ∀ c : Word, c.extractLsb' 28 4 = op → decode c =
      if c &&& mustBeZero ≠ 0 then .malformed .reservedBits
      else if (mk c).wf then .command (mk c) else .malformed .operandRange) :
    WordsOf op mustBeZero mk := by
  intro s c rest hw hp hop
  refine ⟨fun hbad => step_of_malformed hw hp ((hdec c hop).trans (if_pos hbad)), fun hz => ?_⟩
  have hgood := (hdec c hop).trans (if_neg (not_not_intro hz))
  cases hwf : (mk c).wf with
  | true => exact stepRunsTheDecodedCommand s c rest _ hw hp (hgood.trans (if_pos hwf))
  | false =>
    rw [exec_of_operandOutOfRange (s := { s with pending := rest }) hw hwf]
    exact step_of_malformed hw hp (hgood.trans (if_neg (Bool.eq_false_iff.1 hwf)))

/-- The words of a command of format `Z` (R60). -/
theorem wordsOf_noOperand {op : BitVec 4} {i : Instr} (hwf : i.wf = true)
    (hdec : ∀ c : Word, c.extractLsb' 28 4 = op → decode c = decodeNoOperand c i) :
    WordsOf op 0x0FFFFFFF (fun _ => i) := by
  refine wordsOf_of_decode fun c hop => ?_
  rw [hdec c hop, decodeNoOperand, if_pos hwf, ite_not]
  exact if_congr (and_fieldMask_eq_zero_iff (m := 4) (k := 28) (n := 0) c).symm rfl rfl

/-- The words of `PUT`, format `WV` (R60). -/
theorem wordsOf_put : WordsOf 0x2 0x00FFFF00 (fun c => .put (c.extractLsb' 24 4) (c.extractLsb' 0 8)) := by
  refine wordsOf_of_decode fun c hop => ?_
  have hput : decode c = decodePut c := by rw [decode, hop]; rfl
  rw [hput, decodePut]
  exact if_congr (not_congr (and_fieldMask_eq_zero_iff (m := 8) (k := 16) (n := 8) c).symm) rfl rfl

/-! ### `CLRB` and `PUT` -/

/-- Settles O15: the decoder reads format `Z`, and `CLRB` clears the frame and answers. -/
theorem clrbRule : Obligations.ClrbRule :=
  ⟨wordsOf_noOperand rfl fun c hop => by rw [decode, hop]; rfl, fun _ hw => withConfig_of_wf hw _⟩

theorem exec_put_of_overflow {s : State} {w : BitVec 4} (hw : s.cfg.wf = true) (v : Byte) (h1 : 1 ≤ w.toNat)
    (h8 : w.toNat ≤ 8) (hover : 72 < s.blen.toNat + w.toNat) :
    exec (.put w v) s = .next (faultOnly .bufferOverflow s) :=
  (withConfig_of_wf hw _).trans ((if_neg (by omega)).trans (if_pos hover))

/-- The appended bits are the field's own, least significant first (R90, R92). -/
theorem append_fb_getLsbD_field {s : State} {w : Nat} (v : Byte) (hfit : s.blen.toNat + w ≤ 72) {j : Nat} (hj : j < w) :
    (s.append w v.toNat).fb.getLsbD (s.blen.toNat + j) = v.getLsbD j := by
  rw [append_fb_getLsbD _ _ _ _ hfit, if_pos (by omega), Nat.add_sub_cancel_left]
  rfl

/-- An append leaves the bits outside the field alone (R92). -/
theorem append_fb_getLsbD_outside {s : State} {w : Nat} (v : Nat) (hfit : s.blen.toNat + w ≤ 72) {k : Nat}
    (hk : k < s.blen.toNat ∨ s.blen.toNat + w ≤ k) : (s.append w v).fb.getLsbD k = s.fb.getLsbD k := by
  rw [append_fb_getLsbD _ _ _ _ hfit, if_neg (by omega)]

/-- Settles O16: a width out of range is an operand out of range, a field that does not fit overflows before anything is written,
and a field that fits is appended. -/
theorem putRule : Obligations.PutRule := by
  refine ⟨wordsOf_put, fun s w v hw => ⟨fun hwidth => ?_, exec_put_of_overflow hw v, fun h1 h8 hfit => ?_⟩⟩
  · have hrange : ¬ (Instr.put w v).wf = true := by rw [wf_put_iff]; omega
    exact exec_of_operandOutOfRange hw (Bool.eq_false_iff.2 hrange)
  · exact ⟨_, exec_put_of_fits hw v h1 h8 hfit, fun _ => append_fb_getLsbD_field v hfit,
      fun _ => append_fb_getLsbD_outside v.toNat hfit, append_blen_toNat s _ v.toNat hfit, rfl⟩

end Sys2Proof.Machine
end

section
/-! The decoded parameters (R102): the enumerants are named by the tags of the word. And the swing field (R100). -/

namespace Sys2Proof

/-! ### Tags and enumerants (R69) -/

theorem Mode.tag_of_ofTag {t : BitVec 3} {m : Mode} (h : Mode.ofTag t = some m) : m.tag = t := by
  unfold Mode.ofTag at h
  split at h <;> cases h <;> exact BitVec.eq_of_toNat_eq (Eq.symm ‹_›)

theorem VVane.tag_of_ofTag {t : BitVec 4} {v : VVane} (h : VVane.ofTag t = some v) : v.tag = t := by
  unfold VVane.ofTag at h
  split at h <;> cases h <;> exact BitVec.eq_of_toNat_eq (Eq.symm ‹_›)

/-- No fan tag is reserved, so every tag is that of its enumerant. -/
theorem FanSpeed.tag_ofTag (t : BitVec 2) : (FanSpeed.ofTag t).tag = t := by
  revert t; decide

/-- No horizontal vane tag is reserved, so every tag is that of its enumerant. -/
theorem HVane.tag_ofTag (t : BitVec 3) : (HVane.ofTag t).tag = t := by
  revert t; decide

namespace Machine

theorem decodeParams_eq_some {p : ParamWord} {P : Params} (h : decodeParams p = some P) :
    ∃ m v, Mode.ofTag p.mode = some m ∧ VVane.ofTag p.vv = some v
      ∧ P = ⟨m, p.power, FanSpeed.ofTag p.fan, p.temp.toNat, v, HVane.ofTag p.hv⟩ := by
  unfold decodeParams at h
  split at h
  · next m v hm hv => exact ⟨m, v, hm, hv, (Option.some.inj h).symm⟩
  · cases h

/-- Settles O6: the enumerants come from the tags, so assembling their tags gives the fields of the word back. -/
theorem decodedParametersNameTheTags : Obligations.DecodedParametersNameTheTags := by
  refine fun p => ⟨decodeParams_eq_none p, fun P h => ?_⟩
  obtain ⟨m, v, hm, hv, rfl⟩ := decodeParams_eq_some h
  refine ⟨rfl, rfl, ?_⟩
  rw [assembleParams, Mode.tag_of_ofTag hm, VVane.tag_of_ofTag hv, FanSpeed.tag_ofTag, HVane.tag_ofTag]

/-! ### The swing field -/

theorem verticalSwing_iff (v : VVane) :
    verticalSwing v = true ↔ v = .swingAll ∨ v = .swingLow ∨ v = .swingCenter ∨ v = .swingHigh := by
  cases v <;> decide

theorem horizontalSwing_iff (h : HVane) : horizontalSwing h = true ↔ h = .swingAll ∨ h = .swingSpread := by
  cases h <;> decide

theorem swing_iff (P : Params) :
    swing P = true ↔
      (P.vv = .swingAll ∨ P.vv = .swingLow ∨ P.vv = .swingCenter ∨ P.vv = .swingHigh)
        ∧ (P.hv = .swingAll ∨ P.hv = .swingSpread) := by
  rw [swing, Bool.and_eq_true, verticalSwing_iff, horizontalSwing_iff]

/-- Settles O41: the swing field is the number of the swing flag, and the vane fields are the codes by R76. -/
theorem swingNeedsBothAxes : Obligations.SwingNeedsBothAxes := by
  refine fun c P => ⟨?_, rfl, rfl⟩
  simp only [← swing_iff]
  cases h : swing P <;> simp [fieldVal, h]

end Machine

end Sys2Proof
end

section
/-! The frame `BUILD` and `ENCODE` make (R107, R122): its bytes are the byte-strings of the pure function `encode(P)`, and its
byte 8 carries the checksum of bytes 0 to 7. -/

namespace Sys2Proof.Machine

/-! ### The checksum byte -/

theorem frameByte_appendChecksum_of_lt {s : State} (hb : s.blen.toNat = 64) {i : Nat} (hi : i < 8) :
    frameByte s.appendChecksum.fb i = frameByte s.fb i :=
  frameByte_ext fun j hj => by rw [(appendChecksum_spec hb).2, if_pos (by omega)]

theorem frameChecksum_appendChecksum {s : State} (hb : s.blen.toNat = 64) (k : Constants) :
    frameChecksum k s.appendChecksum.fb = frameChecksum k s.fb := by
  simp only [frameChecksum, frameByte_appendChecksum_of_lt hb, Nat.reduceLT]

/-- The bits of the checksum byte-string: four zeros, then the checksum (R77). -/
theorem checksumByteString_getD (c j : Nat) :
    (checksumByteString c).getD j false = (decide (4 ≤ j ∧ j < 8) && c.testBit (j - 4)) := by
  by_cases hj : j < 4
  · rw [checksumByteString, List.getD_append _ _ _ _ (by simpa using hj), enc_getD]
    simp [hj]
  · rw [checksumByteString, List.getD_append_right _ _ _ _ (by simpa using hj), enc_getD, enc_length]
    have hiff : j - 4 < 4 ↔ 4 ≤ j ∧ j < 8 := by omega
    simp only [hiff]

theorem byteString_frameByte_appendChecksum {s : State} (hb : s.blen.toNat = 64) :
    byteString (frameByte s.appendChecksum.fb 8) = checksumByteString (frameChecksum s.cfg.consts s.fb) := by
  refine List.ext_getElem (by simp [checksumByteString]) fun j h1 h2 => ?_
  have hj : j < 8 := byteString_length _ ▸ h1
  rw [← List.getD_eq_getElem _ false h1, ← List.getD_eq_getElem _ false h2, byteString_getD, frameByte_getLsbD,
    checksumByteString_getD, (appendChecksum_spec hb).2, if_neg (by omega), decide_eq_true hj, Bool.true_and]
  by_cases h4 : j < 4
  · rw [if_pos (by omega), decide_eq_false (by omega), Bool.false_and]
  · rw [if_neg (by omega), decide_eq_true (by omega), decide_eq_true (by omega), Nat.add_sub_add_left 64 j 4]

theorem frameChecksum_lt (k : Constants) (fb : FrameBits) : frameChecksum k fb < 16 := checksum_lt ..

theorem bitsVal_checksumByteString (c : Nat) : bitsVal (checksumByteString c) = 16 * (c % 16) := by
  rw [checksumByteString, bitsVal_append, bitsVal_enc, bitsVal_enc, enc_length]
  simp

/-- Byte 8 is the checksum of bytes 0 to 7 in the high nibble (R122). -/
theorem frameByte_eight_appendChecksum {s : State} (hb : s.blen.toNat = 64) :
    (frameByte s.appendChecksum.fb 8).toNat = 16 * frameChecksum s.cfg.consts s.appendChecksum.fb := by
  rw [← bitsVal_byteString, byteString_frameByte_appendChecksum hb, bitsVal_checksumByteString,
    frameChecksum_appendChecksum hb, Nat.mod_eq_of_lt (frameChecksum_lt ..)]

/-! ### The built frame -/

section
variable {s : State} (hw : s.cfg.wf = true) (P : Params)
include hw

/-- Bytes 0 to 7 of the built frame are the byte-strings of `frame07(P)` (R105). -/
theorem byteString_frameByte_buildFrame {i : Nat} (hi : i < 8) :
    byteString (frameByte (s.buildFrame P).fb i) = (frame07 s.cfg P).getD i [] := by
  obtain ⟨hb, hbits⟩ := packed_spec hw P
  rw [State.buildFrame, frameByte_appendChecksum_of_lt hb hi,
    frameByte_of_strings (frame07_bytes hw P) (frame07_length hw P) hbits i hi]

theorem frameByte_buildFrame_toNat {i : Nat} (hi : i < 8) :
    (frameByte (s.buildFrame P).fb i).toNat = byteVal (frame07 s.cfg P) i := by
  rw [← bitsVal_byteString, byteString_frameByte_buildFrame hw P hi, byteVal]

theorem frameByte_eight_buildFrame :
    (frameByte (s.buildFrame P).fb 8).toNat = 16 * frameChecksum s.cfg.consts (s.buildFrame P).fb := by
  have h8 := frameByte_eight_appendChecksum (packed_spec hw P).1
  rwa [foldl_appendFields_cfg, clearFrame_cfg] at h8

theorem frameChecksum_buildFrame (k : Constants) :
    frameChecksum k (s.buildFrame P).fb = stringsChecksum k (frame07 s.cfg P) := by
  simp only [frameChecksum, stringsChecksum, frameByte_buildFrame_toNat hw P, Nat.reduceLT]

/-- The frame registers hold the nine byte-strings of `encode(P)` (R106, R107). -/
theorem frameByteStrings_buildFrame :
    frameByteStrings (s.buildFrame P).fb =
      frame07 s.cfg P ++ [checksumByteString (stringsChecksum s.cfg.consts (frame07 s.cfg P))] := by
  have hlow : (List.range 8).map (fun i => byteString (frameByte (s.buildFrame P).fb i)) = frame07 s.cfg P := by
    refine List.ext_getElem (by simp [frame07_length hw P]) fun i h1 h2 => ?_
    have hi : i < 8 := frame07_length hw P ▸ h2
    rw [List.getElem_map, List.getElem_range, byteString_frameByte_buildFrame hw P hi, List.getD_eq_getElem _ _ h2]
  have hhigh := byteString_frameByte_appendChecksum (packed_spec hw P).1
  rw [← frameChecksum_appendChecksum (packed_spec hw P).1, ← State.buildFrame, foldl_appendFields_cfg, clearFrame_cfg,
    frameChecksum_buildFrame hw P] at hhigh
  rw [frameByteStrings, List.range_succ, List.map_append, hlow, List.map_singleton, hhigh]

end

/-! ### `BUILD` and `ENCODE` -/

/-- What building a frame writes: the frame and its length, and it clears both flags (R107). -/
theorem buildFrame_eq (P : Params) (s : State) :
    s.buildFrame P = { s with fb := (s.buildFrame P).fb, blen := (s.buildFrame P).blen, sv := false, pv := false } :=
  (State.mk.injEq ..).mpr ⟨buildFrame_cfg P s, rfl, rfl, buildFrame_symbols P s, buildFrame_pulses P s, buildFrame_sv P s,
    buildFrame_pv P s, buildFrame_lasterr P s, buildFrame_response P s, buildFrame_pending P s, buildFrame_resets P s⟩

/-- The words of a command of format `PW` (R60, R68). -/
theorem wordsOf_paramWord {op : BitVec 4} {mk : ParamWord → Instr} (hwf : ∀ p, (mk p).wf = true)
    (hdec : ∀ c : Word, c.extractLsb' 28 4 = op → decode c = decodeParamWord c mk) :
    WordsOf op 0x0FE00000 (fun c => mk (fieldsOfPW c)) := by
  refine wordsOf_of_decode fun c hop => ?_
  rw [hdec c hop, decodeParamWord, if_pos (hwf _)]
  exact if_congr (not_congr (and_fieldMask_eq_zero_iff (m := 4) (k := 7) (n := 21) c).symm) rfl rfl

section
variable {p : ParamWord} (s : State) (k : Params → StepResult)

theorem withParams_of_not_legalTags (h : ¬ LegalTags p) : withParams p s k = reject .illegalParam s := by
  have hnone : decodeParams p = none := (decodeParams_eq_none p).2 (by omega)
  simp only [withParams, hnone]

theorem withParams_of_not_legalTemp (h : LegalTags p) (hT : ¬ LegalTemp s.cfg.consts p) :
    withParams p s k = reject .rangeError s := by
  obtain ⟨hbad, _⟩ | ⟨_, _, e⟩ | ⟨_, hgood, _⟩ := withParams_cases p s k
  · omega
  · exact e
  · exact absurd hgood hT

theorem withParams_of_legal (h : LegalTags p) (hT : LegalTemp s.cfg.consts p) :
    ∃ P, decodeParams p = some P ∧ tempField s.cfg.consts P = some (P.temp - s.cfg.consts.tempBias)
      ∧ withParams p s k = k P := by
  obtain ⟨hbad, _⟩ | ⟨_, hbad, _⟩ | ⟨_, _, hP⟩ := withParams_cases p s k
  · omega
  · exact absurd hT hbad
  · exact hP

end

theorem encodeFrame_of_tempField {c : Config} {P : Params} {n : Nat} (h : tempField c.consts P = some n) :
    encodeFrame c P = some (frame07 c P ++ [checksumByteString (stringsChecksum c.consts (frame07 c P))]) := by
  simp only [encodeFrame, h]

/-- Settles O18: the checks reject as R170 orders them, and past them the built frame is `encode(P)`. -/
theorem buildRule : Obligations.BuildRule := by
  refine ⟨wordsOf_paramWord (fun _ => rfl) fun c hop => by rw [decode, hop]; rfl, fun s p hw => ?_⟩
  have hexec : exec (.build p) s = withParams p s fun P => succeed (s.buildFrame P) 0 := withConfig_of_wf hw _
  rw [hexec]
  refine ⟨withParams_of_not_legalTags s _, withParams_of_not_legalTemp s _, fun htags htemp => ?_⟩
  obtain ⟨P, hP, hT, e⟩ := withParams_of_legal s (fun P => succeed (s.buildFrame P) 0) htags htemp
  exact ⟨_, P, _, e, hP, encodeFrame_of_tempField hT, frameByteStrings_buildFrame hw P, buildFrame_blen hw P,
    congrArg (answered 0) (buildFrame_eq P s)⟩

theorem succeeds_of_response_ok {s t : State} {i : Instr} {d : BitVec 16} (h : exec i s = .next t)
    (hr : t.response = some ⟨.ok, d⟩) : Succeeds s t i := by
  obtain ⟨_, hsucc⟩ | ⟨hc, _⟩ | ⟨hc, _⟩ := (exec_cases h).2.of_response hr
  · exact hsucc
  · exact absurd hc not_defaultFault_ok
  · exact absurd hc not_rejection_ok

/-- Settles O42: both commands keep the frame `BUILD` packs, whose byte 8 is 16 times the checksum of its bytes 0 to 7. -/
theorem builtFrameChecksumMatches : Obligations.BuiltFrameChecksumMatches := by
  intro s t p i hi h hr
  have hsucc := succeeds_of_response_ok h hr
  have h8 : (frameByte t.fb 8).toNat = 16 * frameChecksum t.cfg.consts t.fb := by
    obtain rfl | rfl := hi <;> obtain ⟨P, _, _, rfl⟩ := hsucc <;>
      simpa using frameByte_eight_buildFrame (exec_cases h).1 P
  rw [h8, Nat.mul_mod_right, Nat.mul_div_cancel_left _ (by decide)]
  exact ⟨rfl, rfl⟩

/-! ### The bytes under LAYOUT_DEFAULT -/

theorem packByte_nil (c : Config) (P : Params) : packByte c P [] = [] := rfl

theorem bitsVal_packByte_cons (c : Config) (P : Params) (e : LayoutEntry) (es : ByteLayout) :
    bitsVal (packByte c P (e :: es)) =
      fieldVal c P e.source % 2 ^ e.width + 2 ^ e.width * bitsVal (packByte c P es) := by
  have hcons : packByte c P (e :: es) = enc (fieldVal c P e.source) e.width ++ packByte c P es := rfl
  rw [hcons, bitsVal_append, bitsVal_enc, enc_length]

theorem tempField_eq_some {k : Constants} {P : Params} {n : Nat} (h : tempField k P = some n) :
    k.tempMin ≤ P.temp ∧ P.temp ≤ k.tempMax := by
  by_contra hT
  rw [(tempField_eq_none k P).2 hT] at h
  cases h

theorem fieldOk_of_wf {c : Config} (hw : c.wf = true) {e : LayoutEntry} (he : e ∈ c.layout.flatten) : c.fieldOk e = true := by
  obtain ⟨_, _, _, hfields, _⟩ := c.wf_iff.1 hw
  obtain ⟨b, hb, heb⟩ := List.mem_flatten.1 he
  exact hfields b hb e heb

/-- LAYOUT_DEFAULT gives the mode 3 bits, the fan 2 and each vane 4, and R10 (d) makes the codes fit. -/
theorem codes_fit_layoutDefault {c : Config} (hw : c.wf = true) (hl : c.layout = layoutDefault) (P : Params) :
    c.codeMode.code P.mode < 8 ∧ c.codeFan.code P.fan < 4 ∧ c.codeVV.code P.vv < 16 ∧ c.codeHV.code P.hv < 16 := by
  have hok {e : LayoutEntry} (he : e ∈ layoutDefault.flatten) := (c.fieldOk_iff e).1 (fieldOk_of_wf hw (hl ▸ he))
  obtain ⟨hmode, _⟩ := hok (e := ⟨.mode, 3⟩) (by decide)
  obtain ⟨_, hfan, _⟩ := hok (e := ⟨.fan, 2⟩) (by decide)
  obtain ⟨_, _, hvv, _⟩ := hok (e := ⟨.vvane, 4⟩) (by decide)
  obtain ⟨_, _, _, hhv, _⟩ := hok (e := ⟨.hvane, 4⟩) (by decide)
  exact ⟨hmode rfl P.mode, hfan rfl P.fan, hvv rfl P.vv, hhv rfl P.hv⟩

/-- The values of the bytes of `frame07(P)` under LAYOUT_DEFAULT, when the codes and the temperature fit their fields (R75). -/
theorem byteVal_frame07_layoutDefault {c : Config} (hl : c.layout = layoutDefault) (P : Params)
    (hmode : c.codeMode.code P.mode < 8) (hfan : c.codeFan.code P.fan < 4) (hvv : c.codeVV.code P.vv < 16)
    (hhv : c.codeHV.code P.hv < 16) (htemp : P.temp - c.consts.tempBias < 16) :
    byteVal (frame07 c P) 0 = c.codeMode.code P.mode + 8 * P.power.toNat + 16 * c.codeFan.code P.fan + 64 * (swing P).toNat
    ∧ byteVal (frame07 c P) 1 = P.temp - c.consts.tempBias
    ∧ byteVal (frame07 c P) 2 = 0x20 ∧ byteVal (frame07 c P) 3 = 0x50 ∧ byteVal (frame07 c P) 4 = 0x02
    ∧ byteVal (frame07 c P) 5 = c.codeVV.code P.vv + 16 * c.codeHV.code P.hv
    ∧ byteVal (frame07 c P) 6 = 0x20 ∧ byteVal (frame07 c P) 7 = 0x00 := by
  have hpower := P.power.toNat_lt
  have hswing := (swing P).toNat_lt
  simp only [byteVal, frame07, hl, layoutDefault, List.map_cons, List.getD_cons_zero, List.getD_cons_succ,
    bitsVal_packByte_cons, packByte_nil, bitsVal, fieldVal]
  omega

/-- Settles O43: the codes fit their fields by R10 (d), and the checked temperature fits its 4 bits, so no field is cut off. -/
theorem defaultLayoutBytes : Obligations.DefaultLayoutBytes := by
  intro s t p P hl hk hP h hr
  have hw := (exec_cases h).1
  obtain ⟨P', hP', hT, rfl⟩ := succeeds_of_response_ok h hr
  obtain rfl : P = P' := Option.some.inj (hP.symm.trans hP')
  obtain ⟨hmode, hfan, hvv, hhv⟩ := codes_fit_layoutDefault hw hl P
  have hbias : s.cfg.consts.tempBias = 16 := by rw [hk, Constants.source]
  have hmax : s.cfg.consts.tempMax = 30 := by rw [hk, Constants.source]
  have htemp := (tempField_eq_some hT).2
  simp only [respond_fb, ← BitVec.toNat_inj, frameByte_buildFrame_toNat hw P, Nat.reduceLT]
  exact hbias ▸ byteVal_frame07_layoutDefault hl P hmode hfan hvv hhv (by omega)

end Sys2Proof.Machine
end

section
/-! `CSUM` (R123): what it answers and writes, and the seven nibbles its result depends on (R120). -/

namespace Sys2Proof.Machine

/-! ### The command -/

theorem exec_csum_of_wrongLength {s : State} (hw : s.cfg.wf = true) (hb : s.blen.toNat ≠ 64) :
    exec .csum s = .next (faultOnly .badFrameLength s) :=
  (withConfig_of_wf hw _).trans (if_pos hb)

theorem exec_csum_of_eightBytes {s : State} (hw : s.cfg.wf = true) (hb : s.blen.toNat = 64) :
    exec .csum s = .next (s.appendChecksum.clearValid.respond .ok 0) :=
  (withConfig_of_wf hw _).trans (if_neg (not_not_intro hb))

/-- Byte 8 after the checksum is appended, in terms of bytes 0 to 7 before it (R121, R122). -/
theorem frameByte_eight_appendChecksum_toNat {s : State} (hb : s.blen.toNat = 64) :
    (frameByte s.appendChecksum.fb 8).toNat = 16 * frameChecksum s.cfg.consts s.fb := by
  rw [frameByte_eight_appendChecksum hb, frameChecksum_appendChecksum hb]

/-- Settles O17: the decoder reads format `Z`, a wrong length faults before anything is written, and past the check the checksum
byte is appended. -/
theorem csumRule : Obligations.CsumRule := by
  refine ⟨wordsOf_noOperand rfl fun c hop => by rw [decode, hop]; rfl, fun s hw =>
    ⟨exec_csum_of_wrongLength hw, fun hb => ?_⟩⟩
  obtain ⟨hlen, hbits⟩ := appendChecksum_spec hb
  exact ⟨_, exec_csum_of_eightBytes hw hb, frameByte_eight_appendChecksum_toNat hb,
    fun k hk => (hbits k).trans (if_pos hk), hlen, rfl⟩

/-! ### The nibbles the checksum reads -/

theorem lowNibble_frameByte (fb : FrameBits) (i : Nat) :
    lowNibble (frameByte fb i).toNat = (fb.extractLsb' (8 * i) 4).toNat := by
  rw [lowNibble, frameByte, BitVec.extractLsb'_toNat, BitVec.extractLsb'_toNat]
  omega

theorem highNibble_frameByte (fb : FrameBits) (i : Nat) :
    highNibble (frameByte fb i).toNat = (fb.extractLsb' (8 * i + 4) 4).toNat := by
  rw [highNibble, frameByte, BitVec.extractLsb'_toNat, BitVec.extractLsb'_toNat, Nat.shiftRight_add]
  omega

theorem extractLsb'_congr {n m : Nat} {x y : BitVec n} {a : Nat} (h : ∀ k, a ≤ k → k < a + m → x.getLsbD k = y.getLsbD k) :
    x.extractLsb' a m = y.extractLsb' a m := by
  apply BitVec.eq_of_getLsbD_eq
  intro j hj
  rw [BitVec.getLsbD_extractLsb', BitVec.getLsbD_extractLsb', h (a + j) (by omega) (by omega)]

/-- Frames that agree on the seven nibbles of R120 have one checksum. -/
theorem frameChecksum_congr (k : Constants) {fb gb : FrameBits}
    (hlow : ∀ i < 4, fb.extractLsb' (8 * i) 4 = gb.extractLsb' (8 * i) 4)
    (hhigh : ∀ i, 5 ≤ i → i ≤ 7 → fb.extractLsb' (8 * i + 4) 4 = gb.extractLsb' (8 * i + 4) 4) :
    frameChecksum k fb = frameChecksum k gb := by
  simp only [frameChecksum, checksum, lowNibble_frameByte, highNibble_frameByte]
  rw [hlow 0 (by decide), hlow 1 (by decide), hlow 2 (by decide), hlow 3 (by decide),
    hhigh 5 (by decide) (by decide), hhigh 6 (by decide) (by decide), hhigh 7 (by decide) (by decide)]

theorem frameByte_eight_of_exec_csum {s t : State} (hb : s.blen.toNat = 64) (h : exec .csum s = .next t) :
    (frameByte t.fb 8).toNat = 16 * frameChecksum s.cfg.consts s.fb := by
  obtain ⟨hw, _⟩ := exec_cases h
  obtain rfl := Host.Outcome.next.inj ((exec_csum_of_eightBytes hw hb).symm.trans h)
  exact frameByte_eight_appendChecksum_toNat hb

/-- Settles O44: byte 8 is 16 times the checksum, which is computed from the seven nibbles. -/
theorem checksumReadsOnlySevenNibbles : Obligations.ChecksumReadsOnlySevenNibbles := by
  intro s s' t t' hk hb hb' hagree h h'
  have hsum : frameChecksum s'.cfg.consts s.fb = frameChecksum s'.cfg.consts s'.fb :=
    frameChecksum_congr _
      (fun i hi => extractLsb'_congr fun k h1 h2 => hagree k (.inl ⟨i, hi, h1, h2⟩))
      (fun i h5 h7 => extractLsb'_congr fun k h1 h2 => hagree k (.inr ⟨i, h5, h7, h1, h2⟩))
  apply BitVec.eq_of_toNat_eq
  rw [frameByte_eight_of_exec_csum hb h, frameByte_eight_of_exec_csum hb' h', hk, hsum]

end Sys2Proof.Machine
end

section
/-! The symbol string and `SYM` (R137): the symbols by index are the concatenation of the frame's byte-strings (R130, R131). -/

namespace Sys2Proof.Machine

/-! ### The symbol string -/

/-- A frame byte's byte-string is the run of frame bits from `8*i` on (R13, R21). -/
theorem byteString_frameByte (fb : FrameBits) (i : Nat) :
    byteString (frameByte fb i) = (List.range' (8 * i) 8).map fb.getLsbD := by
  refine List.ext_getElem (by simp) fun j h1 h2 => ?_
  have hj : j < 8 := byteString_length _ ▸ h1
  rw [← List.getD_eq_getElem _ false h1, byteString_getD, frameByte_getLsbD, decide_eq_true hj, Bool.true_and]
  simp

/-- The symbols of a run of frame bits (R130). -/
def bitSymbols (fb : FrameBits) (start len : Nat) : List Symbol :=
  (List.range' start len).map fun k => bitSymbol (fb.getLsbD k)

@[simp] theorem bitSymbols_length (fb : FrameBits) (start len : Nat) : (bitSymbols fb start len).length = len := by
  simp [bitSymbols]

@[simp] theorem bitSymbols_getElem (fb : FrameBits) (start len j : Nat) (h : j < (bitSymbols fb start len).length) :
    (bitSymbols fb start len)[j] = bitSymbol (fb.getLsbD (start + j)) := by
  simp [bitSymbols]

theorem frameByteStrings_getD_map_bitSymbol (fb : FrameBits) {i : Nat} (hi : i < 9) :
    ((frameByteStrings fb).getD i []).map bitSymbol = bitSymbols fb (8 * i) 8 := by
  rw [frameByteStrings, List.getD_eq_getElem _ _ (by simpa using hi), List.getElem_map, List.getElem_range,
    byteString_frameByte, List.map_map]
  rfl

/-- The concatenation of R130 on a frame: bits 0 to 34, the gap, bits 40 to 71. -/
theorem symbolString_frameByteStrings (fb : FrameBits) :
    symbolString (frameByteStrings fb) = bitSymbols fb 0 35 ++ [.gap] ++ bitSymbols fb 40 32 := by
  have hlow : bitSymbols fb 0 8 ++ bitSymbols fb 8 8 ++ bitSymbols fb 16 8 ++ bitSymbols fb 24 8
      ++ (bitSymbols fb 32 8).take 3 = bitSymbols fb 0 35 := rfl
  have hhigh : bitSymbols fb 40 32 = bitSymbols fb 40 8 ++ bitSymbols fb 48 8 ++ bitSymbols fb 56 8
      ++ bitSymbols fb 64 8 := rfl
  simp only [symbolString, frameByteStrings_getD_map_bitSymbol, Nat.reduceLT, Nat.reduceMul, ← hlow, hhigh,
    List.append_assoc]

/-- The symbols by index are the concatenation (R130). -/
theorem symbolsOf_toList (fb : FrameBits) : (symbolsOf fb).toList = symbolString (frameByteStrings fb) := by
  rw [symbolString_frameByteStrings]
  have hlen : (bitSymbols fb 0 35 ++ [Symbol.gap]).length = 36 := by simp
  refine List.ext_getElem (by simp) fun k h1 h2 => ?_
  have hk : k < 68 := by simpa using h1
  rw [Vector.getElem_toList]
  rcases Nat.lt_trichotomy k 35 with hlow | rfl | hhigh
  · rw [symbolsOf_low fb k hlow, List.getElem_append_left (by omega), List.getElem_append_left (by simpa using hlow),
      bitSymbols_getElem, Nat.zero_add]
  · rw [symbolsOf_gap]; rfl
  · rw [symbolsOf_high fb k hhigh hk, List.getElem_append_right (by omega), bitSymbols_getElem]
    have hbit : 40 + (k - 36) = k + 4 := by omega
    simp only [hlen, hbit]

/-- Bits 35 to 39 are not read (R130). -/
theorem symbolsOf_congr {fb gb : FrameBits} (h : ∀ k, k < 35 ∨ 40 ≤ k → fb.getLsbD k = gb.getLsbD k) :
    symbolsOf fb = symbolsOf gb := by
  refine Vector.ext fun k hk => ?_
  rcases Nat.lt_trichotomy k 35 with hlow | rfl | hhigh
  · rw [symbolsOf_low fb k hlow, symbolsOf_low gb k hlow, h k (.inl hlow)]
  · rw [symbolsOf_gap, symbolsOf_gap]
  · rw [symbolsOf_high fb k hhigh hk, symbolsOf_high gb k hhigh hk, h (k + 4) (.inr (by omega))]

/-! ### `SYM` -/

theorem symbolBits_symbolsOf_low (fb : FrameBits) {k : Nat} (h : k < 35) :
    (symbolBits (symbolsOf fb)[k]).toNat = (fb.getLsbD k).toNat := by
  rw [symbolsOf_low fb k h, symbolBits_bitSymbol]

theorem symbolBits_symbolsOf_gap (fb : FrameBits) : (symbolBits (symbolsOf fb)[35]).toNat = 2 := by
  rw [symbolsOf_gap]
  rfl

theorem symbolBits_symbolsOf_high (fb : FrameBits) {k : Nat} (h36 : 36 ≤ k) (h : k < 68) :
    (symbolBits (symbolsOf fb)[k]).toNat = (fb.getLsbD (k + 4)).toNat := by
  rw [symbolsOf_high fb k h36 h, symbolBits_bitSymbol]

theorem exec_sym_of_incomplete {s : State} (hw : s.cfg.wf = true) (hb : s.blen.toNat ≠ 72) :
    exec .sym s = .next (faultOnly .badFrameLength s) :=
  (withConfig_of_wf hw _).trans (if_pos hb)

theorem exec_sym_of_complete {s : State} (hw : s.cfg.wf = true) (hb : s.blen.toNat = 72) :
    exec .sym s = .next (s.makeSymbols.respond .ok 0) :=
  (withConfig_of_wf hw _).trans (if_neg (not_not_intro hb))

theorem symbols_of_exec_sym {s t : State} (hb : s.blen.toNat = 72) (h : exec .sym s = .next t) :
    t.symbols = symbolsOf s.fb := by
  obtain ⟨hw, _⟩ := exec_cases h
  obtain rfl := Host.Outcome.next.inj ((exec_sym_of_complete hw hb).symm.trans h)
  simp

/-- Settles O19: the decoder reads format `Z`, an incomplete frame faults before anything is written, and the symbols of a
complete one are its bits. -/
theorem symRule : Obligations.SymRule := by
  refine ⟨wordsOf_noOperand rfl fun c hop => by rw [decode, hop]; rfl, fun s hw =>
    ⟨exec_sym_of_incomplete hw, fun hb => ⟨_, exec_sym_of_complete hw hb, ?_⟩⟩⟩
  exact ⟨fun k hk => symbolBits_symbolsOf_low s.fb (by omega), symbolBits_symbolsOf_gap s.fb,
    fun k h36 hk => symbolBits_symbolsOf_high s.fb h36 (by omega), rfl⟩

/-- Settles O45: `SYM` makes the symbols by index, and these are the concatenation. -/
theorem symbolsAreTheByteStringsConcatenated : Obligations.SymbolsAreTheByteStringsConcatenated := by
  intro s t _ hb h
  rw [symbols_of_exec_sym hb h]
  exact ⟨symbolsOf_toList s.fb, Vector.length_toList, fun k hk => symbolsOf_eq_gap_iff s.fb k (by omega)⟩

/-- Settles O46: the symbols by index name only the other bits. -/
theorem droppedBitsReachNoSymbol : Obligations.DroppedBitsReachNoSymbol := by
  intro s s' t t' hb hb' hagree h h'
  rw [symbols_of_exec_sym hb h, symbols_of_exec_sym hb' h']
  exact symbolsOf_congr hagree

end Sys2Proof.Machine
end

section
/-! The pulse mapper: the pulses by index are the pulse sequence (R133, R134), `PULSE` writes them (R138), and `ENCODE` does
what `BUILD`, `SYM` and `PULSE` do in turn (R139). -/

namespace Sys2Proof.Machine

/-! ### The pulse sequence -/

section
variable {k : Constants} (hk : ∀ d ∈ k.durations, d < 65536) (s : Vector Symbol 68)
include hk

/-- The header and the trailer (R134). -/
theorem pulsesOf_ends_toNat :
    (pulsesOf k s)[0].toNat = k.hdrMark ∧ (pulsesOf k s)[1].toNat = k.hdrSpace
      ∧ (pulsesOf k s)[138].toNat = k.trailMark ∧ (pulsesOf k s)[139].toNat = k.trailSpace := by
  simp only [Constants.durations, List.forall_mem_cons] at hk
  obtain ⟨hhm, hhs, _, _, _, _, htm, hts, _⟩ := hk
  rw [pulsesOf_zero, pulsesOf_one, pulsesOf_trailMark, pulsesOf_trailSpace]
  exact ⟨micros_toNat hhm, micros_toNat hhs, micros_toNat htm, micros_toNat hts⟩

theorem pulsesOf_mark_toNat {j : Nat} (hj : j < 68) : (pulsesOf k s)[2 + 2 * j].toNat = k.bitMark := by
  rw [pulsesOf_mark k s j hj, micros_toNat (hk _ (by simp [Constants.durations]))]

theorem pulsesOf_space_toNat {j : Nat} (hj : j < 68) : (pulsesOf k s)[3 + 2 * j].toNat = gap k s[j] := by
  rw [pulsesOf_space k s j hj, micros_toNat (hk _ (gap_mem_durations k _))]

end

theorem toList_eq_ofFn {α : Type} {n : Nat} (v : Vector α n) : v.toList = List.ofFn fun i : Fin n => v[i.val] := by
  refine List.ext_getElem (by rw [Vector.length_toList, List.length_ofFn]) fun i _ _ => ?_
  rw [Vector.getElem_toList, List.getElem_ofFn]

/-- A buffer of 140 entries as its header pair, 68 pairs and its trailer pair. -/
theorem toList_eq_pairs {α : Type} (v : Vector α 140) :
    v.toList = [v[0], v[1]] ++ (List.ofFn fun j : Fin 68 => [v[2 + 2 * j.val], v[3 + 2 * j.val]]).flatten
      ++ [v[138], v[139]] := by
  have hpair (j : Fin 68) :
      (List.ofFn fun i : Fin 2 => v[2 + (j.val * 2 + i.val)]) = [v[2 + 2 * j.val], v[3 + 2 * j.val]] := by
    simp only [List.ofFn_succ, List.ofFn_zero, Fin.val_zero, Fin.val_succ]
    congr 3 <;> omega
  rw [toList_eq_ofFn]
  change (List.ofFn fun i : Fin (2 + 68 * 2 + 2) => v[i.val]) = _
  rw [List.ofFn_add, List.ofFn_add, List.ofFn_mul]
  simp only [Fin.val_castLE, Fin.val_natAdd, hpair]
  rfl

/-- The pulses by index are the pulse sequence (R133, R134). -/
theorem pulsesOf_toList_map_toNat {k : Constants} (hk : ∀ d ∈ k.durations, d < 65536) (s : Vector Symbol 68) :
    (pulsesOf k s).toList.map (·.toNat) = pulseSequence k s.toList := by
  obtain ⟨h0, h1, h138, h139⟩ := pulsesOf_ends_toNat hk s
  simp only [toList_eq_pairs, pulseSequence, toList_eq_ofFn s, List.map_append, List.map_cons, List.map_nil,
    List.map_flatten, List.map_ofFn, Function.comp_def, h0, h1, h138, h139, pulsesOf_mark_toNat hk s (Fin.isLt _),
    pulsesOf_space_toNat hk s (Fin.isLt _)]

theorem pulseSequence_length (k : Constants) (l : List Symbol) : (pulseSequence k l).length = 2 + 2 * l.length + 2 := by
  simp only [pulseSequence, List.length_append, List.length_cons, List.length_nil, List.length_flatten, List.map_map,
    Function.comp_def, List.map_const', List.sum_replicate, smul_eq_mul]
  omega

theorem pulseSequence_sum (k : Constants) (l : List Symbol) :
    (pulseSequence k l).sum =
      k.hdrMark + k.hdrSpace + (l.length * k.bitMark + (l.map (gap k)).sum) + k.trailMark + k.trailSpace := by
  simp only [pulseSequence, List.sum_append, List.sum_cons, List.sum_nil, List.sum_flatten, List.map_map, Function.comp_def,
    List.sum_map_add, List.map_const', List.sum_replicate, smul_eq_mul, add_zero]
  omega

/-! ### `PULSE` -/

theorem exec_pulse_of_not_valid {s : State} (hw : s.cfg.wf = true) (hs : s.sv = false) :
    exec .pulse s = .next (faultOnly .notValid s) :=
  (withConfig_of_wf hw _).trans (if_neg (Bool.eq_false_iff.1 hs))

theorem exec_pulse_of_valid {s : State} (hw : s.cfg.wf = true) (hs : s.sv = true) :
    exec .pulse s = .next (s.makePulses.respond .ok 0) :=
  (withConfig_of_wf hw _).trans (if_pos hs)

/-- Settles O20: the decoder reads format `Z`, `PULSE` faults on invalid symbols before anything is written, and else writes
the pulses by index, whose durations fit a pulse word (D28). -/
theorem pulseRule : Obligations.PulseRule := by
  refine ⟨wordsOf_noOperand rfl fun c hop => by rw [decode, hop]; rfl, fun s hw =>
    ⟨exec_pulse_of_not_valid hw, fun hs => ⟨_, exec_pulse_of_valid hw hs, ?_⟩⟩⟩
  have hk := durations_of_wf hw
  obtain ⟨h0, h1, h138, h139⟩ := pulsesOf_ends_toNat hk s.symbols
  refine ⟨h0, h1, fun k hle => ?_, h138, h139, rfl⟩
  have hspace := pulsesOf_space_toNat hk s.symbols (j := k) (by omega)
  exact ⟨pulsesOf_mark_toNat hk s.symbols (by omega), fun hsym => hspace.trans (congrArg (gap _) hsym),
    fun hsym => hspace.trans (congrArg (gap _) hsym), fun hsym => hspace.trans (congrArg (gap _) hsym)⟩

/-- Settles O47: the pulses by index are the pulse sequence, and `S` holds 68 symbols. -/
theorem pulsesAreTheSequenceOfTheSymbols : Obligations.PulsesAreTheSequenceOfTheSymbols := by
  intro s t hs h
  obtain ⟨hw, _⟩ := exec_cases h
  obtain rfl := Host.Outcome.next.inj ((exec_pulse_of_valid hw hs).symm.trans h)
  refine ⟨pulsesOf_toList_map_toNat (durations_of_wf hw) s.symbols, ?_⟩
  rw [pulseSequence_length, Vector.length_toList]

/-! ### `ENCODE` -/

/-- Past their common checks, `BUILD` and `ENCODE` succeed with the same decoded parameters (R107, R139). -/
theorem exec_build_encode_of_legal {s : State} {p : ParamWord} (hw : s.cfg.wf = true) (htags : LegalTags p)
    (htemp : LegalTemp s.cfg.consts p) :
    ∃ P n, decodeParams p = some P ∧ tempField s.cfg.consts P = some n
      ∧ exec (.build p) s = .next ((s.buildFrame P).respond .ok 0)
      ∧ exec (.encode p) s = .next ((s.buildFrame P).makeSymbols.makePulses.respond .ok 0) := by
  obtain ⟨P, hP, hT, _⟩ := withParams_of_legal s (fun P => succeed (s.buildFrame P) 0) htags htemp
  have hparams (k : Params → StepResult) : withParams p s k = k P := by simp only [withParams, hP, hT]
  exact ⟨P, _, hP, hT, (withConfig_of_wf hw _).trans (hparams _), (withConfig_of_wf hw _).trans (hparams _)⟩

/-- Settles O21: `ENCODE` makes the checks of `BUILD`; past them `BUILD` fills the frame, so `SYM` does not fault, and `SYM`
makes the symbols valid, so `PULSE` does not either. Each answer overwrites the one before. -/
theorem encodeRule : Obligations.EncodeRule := by
  refine ⟨wordsOf_paramWord (fun _ => rfl) fun c hop => by rw [decode, hop]; rfl, fun s p hw => ?_⟩
  have hexec : exec (.encode p) s = withParams p s fun P => succeed (s.buildFrame P).makeSymbols.makePulses 0 :=
    withConfig_of_wf hw _
  refine ⟨fun h => hexec.trans (withParams_of_not_legalTags s _ h),
    fun h hT => hexec.trans (withParams_of_not_legalTemp s _ h hT), fun htags htemp => ?_⟩
  obtain ⟨P, _, _, _, hbuild, hencode⟩ := exec_build_encode_of_legal hw htags htemp
  have hcfg : (s.buildFrame P).cfg.wf = true := (buildFrame_cfg P s).symm ▸ hw
  exact ⟨_, _, _, hbuild, exec_sym_of_complete hcfg (buildFrame_blen hw P), exec_pulse_of_valid hcfg rfl, hencode,
    rfl, rfl, rfl, rfl, rfl, rfl⟩

/-- Settles O48: the pulses `ENCODE` writes are the sequence of the symbols of the built frame, whose byte-strings are those of
`encode(P)`. -/
theorem encodeIsTheSourcePipeline : Obligations.EncodeIsTheSourcePipeline := by
  intro s p hw htags htemp
  obtain ⟨P, _, hP, hT, _, hencode⟩ := exec_build_encode_of_legal hw htags htemp
  refine ⟨_, P, _, hencode, rfl, hP, encodeFrame_of_tempField hT, ?_⟩
  simp only [respond_pulses, makePulses_pulses, makeSymbols_cfg, makeSymbols_symbols, buildFrame_cfg]
  rw [pulsesOf_toList_map_toNat (durations_of_wf hw), symbolsOf_toList, frameByteStrings_buildFrame hw P]

end Sys2Proof.Machine
end

section
/-! What a readable pulse buffer holds under the constants of R9 (R134, R136), and the total of its durations (R140). -/

namespace Sys2Proof.Machine

theorem durations_source : ∀ d ∈ Constants.source.durations, d < 65536 := by decide

/-- What a readable pulse buffer holds (R26 (I-S), (I-P)). -/
theorem State.Inv.of_pv {s : State} (h : s.Inv) (hp : s.pv = true) :
    s.symbols = symbolsOf s.fb ∧ s.pulses = pulsesOf s.cfg.consts s.symbols :=
  have ⟨hs, hpulses⟩ := h.pulses_valid hp
  ⟨(h.symbols_valid hs).2, hpulses⟩

/-- Settles O49: the pulses are those of the symbols, and only symbol 35 is the gap. -/
theorem readablePulsesHaveTheProtocolShape : Obligations.ReadablePulsesHaveTheProtocolShape := by
  intro s hinv hp hconsts
  obtain ⟨hsymbols, hpulses⟩ := hinv.of_pv hp
  obtain ⟨h0, h1, h138, h139⟩ := pulsesOf_ends_toNat durations_source s.symbols
  rw [hpulses, hconsts]
  refine ⟨h0, h1, h138, h139, fun k hle => ?_⟩
  have hk : k < 68 := by omega
  have hspace := pulsesOf_space_toNat durations_source s.symbols hk
  have hgap : s.symbols[k] = .gap ↔ k = 35 := hsymbols ▸ symbolsOf_eq_gap_iff s.fb k hk
  refine ⟨pulsesOf_mark_toNat durations_source s.symbols hk, fun h35 => ?_, fun h35 => ?_⟩
  · rw [hspace, hgap.2 h35]; rfl
  · rw [hspace]
    cases hsym : s.symbols[k] with
    | zero => exact .inl ⟨rfl, rfl⟩
    | one => exact .inr ⟨rfl, rfl⟩
    | gap => exact absurd (hgap.1 hsym) h35

/-! ### The total duration -/

theorem count_one_add_count_gap_le (l : List Symbol) : l.count .one + l.count .gap ≤ l.length := by
  induction l with
  | nil => simp
  | cons c cs ih => cases c <;> simp <;> omega

/-- Under the constants of R9 every space is 605 µs, and 1079 more at a '1', and 19869 more at the gap. -/
theorem sum_map_gap_source (l : List Symbol) :
    (l.map (gap .source)).sum = 605 * l.length + 1079 * l.count .one + 19869 * l.count .gap := by
  induction l with
  | nil => rfl
  | cons c cs ih =>
    rw [List.map_cons, List.sum_cons, ih, List.length_cons]
    cases c <;> simp [gap, Constants.source] <;> omega

theorem count_gap_bitSymbols (fb : FrameBits) (start len : Nat) : (bitSymbols fb start len).count .gap = 0 := by
  rw [List.count_eq_zero, bitSymbols, List.mem_map]
  rintro ⟨k, _, hk⟩
  exact bitSymbol_ne_gap _ hk

/-- Exactly one symbol is the gap (R131). -/
theorem count_gap_symbolsOf (fb : FrameBits) : (symbolsOf fb).toList.count .gap = 1 := by
  rw [symbolsOf_toList, symbolString_frameByteStrings, List.count_append, List.count_append, count_gap_bitSymbols,
    count_gap_bitSymbols]
  rfl

theorem totalDuration_pulsesOf {k : Constants} (hk : ∀ d ∈ k.durations, d < 65536) (s : Vector Symbol 68) :
    totalDuration (pulsesOf k s) =
      k.hdrMark + k.hdrSpace + (68 * k.bitMark + (s.toList.map (gap k)).sum) + k.trailMark + k.trailSpace := by
  rw [totalDuration, pulsesOf_toList_map_toNat hk, pulseSequence_sum, Vector.length_toList]

/-- Settles O50: the 68 marks, the header and the trailer are fixed, and of the 68 spaces one is the gap and `n1` are long. -/
theorem totalDurationCountsTheOnes : Obligations.TotalDurationCountsTheOnes := by
  intro s hinv hp hconsts
  obtain ⟨hsymbols, hpulses⟩ := hinv.of_pv hp
  have hlen : s.symbols.toList.length = 68 := Vector.length_toList
  have hgap : s.symbols.toList.count .gap = 1 := hsymbols ▸ count_gap_symbolsOf s.fb
  have hle := count_one_add_count_gap_le s.symbols.toList
  have htotal : totalDuration s.pulses = 157517 + 1079 * onesOf s.symbols := by
    rw [hpulses, hconsts, totalDuration_pulsesOf durations_source, sum_map_gap_source, hlen, hgap, onesOf]
    simp only [Constants.source]
    omega
  exact ⟨by rw [onesOf]; omega, htotal, by omega⟩

end Sys2Proof.Machine
end

section
/-! The read-out and housekeeping commands `NOP`, `RDF`, `RDS`, `RDP` and `RDST` (R150 to R154): which words reach them, what
they answer, their faults and their frame. And the read-out of the pulses after `ENCODE` (R153, R199). -/

namespace Sys2Proof.Machine

/-- Settles O14: the decoder reads format `Z`, and `NOP` only answers. -/
theorem nopRule : Obligations.NopRule :=
  ⟨wordsOf_noOperand rfl fun c hop => by rw [decode, hop]; rfl, fun _ hw => withConfig_of_wf hw _⟩

/-- The words of a command of format `IDX` (R60). -/
theorem wordsOf_index {op : BitVec 4} {mk : Byte → Instr}
    (hdec : ∀ c : Word, c.extractLsb' 28 4 = op → decode c = decodeIndex c mk) :
    WordsOf op 0x0FFFFF00 (fun c => mk (c.extractLsb' 0 8)) := by
  refine wordsOf_of_decode fun c hop => ?_
  rw [hdec c hop, decodeIndex]
  exact if_congr (not_congr (and_fieldMask_eq_zero_iff (m := 4) (k := 20) (n := 8) c).symm) rfl rfl

/-! ### `RDF` -/

theorem exec_rdf_of_unwritten {s : State} {i : Byte} (hw : s.cfg.wf = true) (hi : i.toNat ≤ 8)
    (hb : s.blen.toNat < 8 * i.toNat + 8) : exec (.rdf i) s = .next (faultOnly .notValid s) :=
  (withConfig_of_wf hw _).trans ((if_neg (by omega)).trans (if_pos hb))

theorem exec_rdf_of_written {s : State} {i : Byte} (hw : s.cfg.wf = true) (hi : i.toNat ≤ 8)
    (hb : 8 * i.toNat + 8 ≤ s.blen.toNat) :
    exec (.rdf i) s = .next (answered ((frameByte s.fb i.toNat).setWidth 16) s) :=
  (withConfig_of_wf hw _).trans ((if_neg (by omega)).trans (if_neg (by omega)))

theorem getLsbD_setWidth_frameByte (fb : FrameBits) (i : Nat) {j : Nat} (hj : j < 8) :
    ((frameByte fb i).setWidth 16).getLsbD j = fb.getLsbD (8 * i + j) := by
  have hj16 : j < 16 := by omega
  rw [BitVec.getLsbD_setWidth, frameByte_getLsbD, decide_eq_true hj, decide_eq_true hj16, Bool.true_and, Bool.true_and]

/-- A byte in 16 bits of data has 0 in its high byte (R151). -/
theorem highByte_setWidth (b : Byte) : (b.setWidth 16).extractLsb' 8 8 = 0 := by
  rw [BitVec.setWidth_eq_append (by decide)]
  exact BitVec.extractLsb'_append_eq_left

/-- Settles O22: the decoder reads format `IDX`, an index out of range and a byte not fully written fault, and the answer is the
frame byte, zero-extended. -/
theorem rdfRule : Obligations.RdfRule := by
  refine ⟨wordsOf_index fun c hop => by rw [decode, hop]; rfl, fun s i hw =>
    ⟨fun hi => ?_, exec_rdf_of_unwritten hw, fun hi hb => ⟨_, exec_rdf_of_written hw hi hb, ?_⟩⟩⟩
  · exact exec_of_operandOutOfRange hw (decide_eq_false (by omega))
  · exact ⟨fun _ => getLsbD_setWidth_frameByte s.fb i.toNat, highByte_setWidth _⟩

/-! ### `RDS` -/

theorem exec_rds_of_not_valid {s : State} {i : Byte} (hw : s.cfg.wf = true) (hi : i.toNat ≤ 67) (hs : s.sv = false) :
    exec (.rds i) s = .next (faultOnly .notValid s) :=
  (withConfig_of_wf hw _).trans ((dif_pos hi).trans (if_neg (Bool.eq_false_iff.1 hs)))

theorem exec_rds_of_valid {s : State} {i : Byte} (hw : s.cfg.wf = true) (hi : i.toNat ≤ 67) (hs : s.sv = true) :
    exec (.rds i) s = .next (answered ((symbolBits s.symbols[i.toNat]).setWidth 16) s) :=
  (withConfig_of_wf hw _).trans ((dif_pos hi).trans (if_pos hs))

theorem symbolBits_of_ne_gap {c : Symbol} (h : c ≠ .gap) :
    (symbolBits c).setWidth 16 = 0 ∨ (symbolBits c).setWidth 16 = 1 := by
  cases c with
  | zero => exact .inl rfl
  | one => exact .inr rfl
  | gap => exact absurd rfl h

/-- A readable symbol buffer holds the gap at index 35 and nowhere else (R26 (I-S), R131). -/
theorem State.Inv.symbol_eq_gap_iff {s : State} (h : s.Inv) (hs : s.sv = true) {k : Nat} (hk : k < 68) :
    s.symbols[k] = .gap ↔ k = 35 := by
  obtain ⟨_, hsymbols⟩ := h.symbols_valid hs
  rw [hsymbols]
  exact symbolsOf_eq_gap_iff s.fb k hk

/-- Settles O23: the decoder reads format `IDX`, an index out of range and invalid symbols fault, and the answer is the code of
the symbol, which is the gap only at index 35. -/
theorem rdsRule : Obligations.RdsRule := by
  refine ⟨wordsOf_index fun c hop => by rw [decode, hop]; rfl, fun s i hw =>
    ⟨fun hi => ?_, exec_rds_of_not_valid hw, fun hi hs => ⟨_, exec_rds_of_valid hw hi hs, ?_⟩⟩⟩
  · exact exec_of_operandOutOfRange hw (decide_eq_false (by omega))
  · refine ⟨fun h => by rw [h]; rfl, fun h => by rw [h]; rfl, fun h => by rw [h]; rfl, fun hinv => ?_⟩
    have hgap : s.symbols[i.toNat] = .gap ↔ i.toNat = 35 := hinv.symbol_eq_gap_iff hs (by omega)
    exact ⟨fun h35 => by rw [hgap.2 h35]; rfl, fun h35 => symbolBits_of_ne_gap (hgap.not.2 h35)⟩

/-! ### `RDP` -/

theorem exec_rdp_of_not_valid {s : State} {i : Byte} (hw : s.cfg.wf = true) (hi : i.toNat ≤ 139) (hp : s.pv = false) :
    exec (.rdp i) s = .next (faultOnly .notValid s) :=
  (withConfig_of_wf hw _).trans ((dif_pos hi).trans (if_neg (Bool.eq_false_iff.1 hp)))

theorem exec_rdp_of_valid {s : State} {i : Byte} (hw : s.cfg.wf = true) (hi : i.toNat ≤ 139) (hp : s.pv = true) :
    exec (.rdp i) s = .next (answered s.pulses[i.toNat] s) :=
  (withConfig_of_wf hw _).trans ((dif_pos hi).trans (if_pos hp))

/-- Settles O24: the decoder reads format `IDX`, an index out of range and invalid pulses fault, and the answer is the duration;
a readable pulse buffer holds the pulses of the symbols, whose header and trailer are the configuration's. -/
theorem rdpRule : Obligations.RdpRule := by
  refine ⟨wordsOf_index fun c hop => by rw [decode, hop]; rfl, fun s i hw =>
    ⟨fun hi => ?_, exec_rdp_of_not_valid hw, exec_rdp_of_valid hw, fun hinv hp => ?_⟩⟩
  · exact exec_of_operandOutOfRange hw (decide_eq_false (by omega))
  · obtain ⟨_, hpulses⟩ := hinv.of_pv hp
    rw [hpulses]
    exact pulsesOf_ends_toNat (durations_of_wf hw) s.symbols

/-! ### `RDST` -/

theorem exec_rdst {s : State} (hw : s.cfg.wf = true) : exec .rdst s = .next (s.respondUnrecorded s.statusWord) :=
  withConfig_of_wf hw _

/-- A word is `STATUS` exactly when its fields are those R28 places. -/
theorem eq_statusWord_iff (d : BitVec 16) (s : State) :
    d = s.statusWord ↔ d.extractLsb' 13 3 = 0 ∧ d.extractLsb' 9 4 = s.lasterr.bits ∧ d.getLsbD 8 = s.pv
      ∧ d.getLsbD 7 = s.sv ∧ d.extractLsb' 0 7 = s.blen := by
  rw [State.statusWord, eq_append_iff (m := 9) (n := 7), extractLsb'_eq_append_iff (m := 8) (n := 1),
    extractLsb'_eq_append_iff (m := 7) (n := 1), extractLsb'_eq_append_iff (m := 3) (n := 4), extractLsb'_one,
    extractLsb'_one, BitVec.ofBool_eq_iff_eq, BitVec.ofBool_eq_iff_eq, and_assoc, and_assoc, and_assoc]
  rfl

/-- Settles O25: the decoder reads format `Z`, and `RDST` answers `STATUS` without recording the answer. -/
theorem rdstRule : Obligations.RdstRule := by
  refine ⟨wordsOf_noOperand rfl fun c hop => by rw [decode, hop]; rfl, fun s hw => ⟨s.statusWord, exec_rdst hw, ?_⟩⟩
  obtain ⟨hzero, hlasterr, hpv, hsv, hblen⟩ := (eq_statusWord_iff s.statusWord s).1 rfl
  exact ⟨hblen, hsv, hpv, hlasterr, hzero⟩

/-! ### Reading out after `ENCODE` -/

theorem exists_exec_next_of_read {s : State} {i : Instr} (hw : s.cfg.wf = true) (hi : isRead i = true) :
    ∃ t, exec i s = .next t := by
  cases hwf : i.wf with
  | false => exact ⟨_, exec_of_operandOutOfRange hw hwf⟩
  | true =>
    cases i with
    | rdf j =>
      have hj : j.toNat ≤ 8 := of_decide_eq_true hwf
      obtain hb | hb := Nat.lt_or_ge s.blen.toNat (8 * j.toNat + 8)
      · exact ⟨_, exec_rdf_of_unwritten hw hj hb⟩
      · exact ⟨_, exec_rdf_of_written hw hj hb⟩
    | rds j =>
      have hj : j.toNat ≤ 67 := of_decide_eq_true hwf
      cases hs : s.sv with
      | false => exact ⟨_, exec_rds_of_not_valid hw hj hs⟩
      | true => exact ⟨_, exec_rds_of_valid hw hj hs⟩
    | rdp j =>
      have hj : j.toNat ≤ 139 := of_decide_eq_true hwf
      cases hp : s.pv with
      | false => exact ⟨_, exec_rdp_of_not_valid hw hj hp⟩
      | true => exact ⟨_, exec_rdp_of_valid hw hj hp⟩
    | rdst => exact ⟨_, exec_rdst hw⟩
    | _ => cases hi

/-- A read, also one that faults, and a `NOP` write nothing but `LASTERR` and the response (R33, R150, R171). -/
theorem exec_of_read_or_nop {s : State} {i : Instr} (hw : s.cfg.wf = true) (hi : isRead i = true ∨ i = .nop) :
    ∃ e r, exec i s = .next { s with lasterr := e, response := r } := by
  obtain hread | rfl := hi
  · obtain ⟨t, ht⟩ := exists_exec_next_of_read hw hread
    obtain ⟨_, c, d, rfl⟩ | ⟨_, rfl⟩ := exec_cases_of_read hread ht
    · exact ⟨_, _, ht⟩
    · exact ⟨_, _, ht⟩
  · exact ⟨_, _, withConfig_of_wf hw _⟩

theorem issueAll_of_reads_and_nops {js : List Instr} (hjs : ∀ j ∈ js, isRead j = true ∨ j = .nop) {s : State}
    (hw : s.cfg.wf = true) : ∃ e r, issueAll js s = .next { s with lasterr := e, response := r } := by
  induction js generalizing s with
  | nil => exact ⟨_, _, rfl⟩
  | cons j js ih =>
    rw [List.forall_mem_cons] at hjs
    obtain ⟨hj, hrest⟩ := hjs
    obtain ⟨_, _, hexec⟩ := exec_of_read_or_nop hw hj
    rw [issueAll_cons_of_next hexec]
    exact ih hrest hw

/-- Settles O53: reads and `NOP`s leave the pulses of `ENCODE` and their validity alone, and these are the sequence. -/
theorem readOutGivesTheWholeSequence : Obligations.ReadOutGivesTheWholeSequence := by
  intro s p js hw htags htemp hjs
  obtain ⟨t, P, bs, hencode, hpv, hP, hbs, hseq⟩ := encodeIsTheSourcePipeline s p hw htags htemp
  have hwt : t.cfg.wf = true := (exec_withinWriteSet hencode).cfg.symm ▸ hw
  obtain ⟨e, r, hreads⟩ := issueAll_of_reads_and_nops hjs hwt
  refine ⟨t, _, P, bs, hencode, hreads, hP, hbs, fun i hi => ⟨_, t.pulses[i.toNat], exec_rdp_of_valid hwt hi hpv, rfl, ?_⟩⟩
  have hlen : i.toNat < t.pulses.toList.length := by rw [Vector.length_toList]; omega
  rw [← hseq, List.getElem?_map, List.getElem?_eq_getElem hlen, Vector.getElem_toList]
  rfl

end Sys2Proof.Machine
end

section
/-! The exceptions: a malformed word takes `IllegalCommand` (R164), a fault with the default effect changes only `LASTERR` (R171),
and after a rejection nothing is readable until the host packs or builds again (R172). And the idle step (R181, log 9). -/

namespace Sys2Proof.Machine

/-! ### Idle steps and malformed words -/

theorem fetch_of_idle {s : State} (hp : s.pending = []) : fetch s = .done (.next s) := by
  simp only [fetch, hp]

/-- Settles O11: with nothing pending the step fetches the state it is in. -/
theorem idleStepHoldsTheState : Obligations.IdleStepHoldsTheState := by
  intro s hw hp
  rw [step, withConfig_of_wf hw, fetch_of_idle hp]

/-- Settles O8: the decoder is total, so a word that is no command is malformed. -/
theorem malformedWordIsIllegalCommand : Obligations.MalformedWordIsIllegalCommand := by
  intro s w rest hw hp hne
  cases hd : decode w with
  | command i => exact absurd hd (hne i)
  | malformed why => exact step_of_malformed hw hp hd

/-! ### Faults with the default effect -/

/-- Settles O26: a command that answers one of the four codes has neither succeeded nor rejected, and a malformed word only
faults. -/
theorem defaultFaultChangesOnlyLastErr : Obligations.DefaultFaultChangesOnlyLastErr := by
  intro s t w rest r hp h hr hfault
  obtain ⟨i, _, he⟩ | ⟨_, _, rfl⟩ := step_cases_of_command hp h
  · obtain ⟨hok, _⟩ | ⟨_, _, ht⟩ | ⟨hrej, _⟩ := (exec_cases he).2.of_response hr
    · exact absurd (hok ▸ hfault) not_defaultFault_ok
    · exact ht
    · exact absurd hrej (DefaultFault.not_rejection hfault)
  · obtain rfl := Option.some.inj hr
    rfl

/-! ### After a rejection -/

/-- The frame is empty and neither buffer is valid, as a rejection leaves the block (R172). -/
structure NothingReadable (s : State) : Prop where
  wf : s.cfg.wf = true
  blen : s.blen = 0
  sv : s.sv = false
  pv : s.pv = false

/-- The commands the host may issue after a rejection before it packs or builds again (R172). -/
abbrev NeitherPacksNorBuilds (j : Instr) : Prop := needsResult j = true ∨ j = .nop ∨ j = .rdst ∨ j = .clrb

theorem nothingReadable_clearFrame {s : State} (hw : s.cfg.wf = true) : NothingReadable s.clearFrame :=
  ⟨hw, rfl, rfl, rfl⟩

namespace NothingReadable

variable {s : State}

theorem respond (h : NothingReadable s) (c : RespCode) (d : BitVec 16) : NothingReadable (s.respond c d) := { h with }

theorem respondUnrecorded (h : NothingReadable s) (d : BitVec 16) : NothingReadable (s.respondUnrecorded d) := { h with }

theorem blen_toNat (h : NothingReadable s) : s.blen.toNat = 0 := congrArg BitVec.toNat h.blen

/-- With nothing readable, a command that needs a frame, symbols or pulses faults with the default effect, for its operand or
for what it needs. -/
theorem exec_of_needsResult (h : NothingReadable s) {j : Instr} (hj : needsResult j = true) :
    ∃ c, DefaultFault c ∧ exec j s = .next (s.respond c 0) := by
  cases hwf : j.wf with
  | false => exact ⟨_, .inl rfl, exec_of_operandOutOfRange h.wf hwf⟩
  | true =>
    have hb := h.blen_toNat
    cases j with
    | rdf k => exact ⟨_, .inr (.inr (.inr rfl)), exec_rdf_of_unwritten h.wf (of_decide_eq_true hwf) (by omega)⟩
    | rds k => exact ⟨_, .inr (.inr (.inr rfl)), exec_rds_of_not_valid h.wf (of_decide_eq_true hwf) h.sv⟩
    | rdp k => exact ⟨_, .inr (.inr (.inr rfl)), exec_rdp_of_not_valid h.wf (of_decide_eq_true hwf) h.pv⟩
    | pulse => exact ⟨_, .inr (.inr (.inr rfl)), exec_pulse_of_not_valid h.wf h.sv⟩
    | sym => exact ⟨_, .inr (.inr (.inl rfl)), exec_sym_of_incomplete h.wf (by omega)⟩
    | csum => exact ⟨_, .inr (.inr (.inl rfl)), exec_csum_of_wrongLength h.wf (by omega)⟩
    | _ => cases hj

/-- A command that neither packs nor builds makes nothing readable. -/
theorem exec_keeps (h : NothingReadable s) {j : Instr} (hj : NeitherPacksNorBuilds j) :
    ∃ t, exec j s = .next t ∧ NothingReadable t := by
  obtain hneeds | rfl | rfl | rfl := hj
  · obtain ⟨c, _, he⟩ := h.exec_of_needsResult hneeds
    exact ⟨_, he, h.respond c 0⟩
  · exact ⟨_, withConfig_of_wf h.wf _, h.respond .ok 0⟩
  · exact ⟨_, exec_rdst h.wf, h.respondUnrecorded _⟩
  · exact ⟨_, withConfig_of_wf h.wf _, (nothingReadable_clearFrame h.wf).respond .ok 0⟩

theorem issueAll_keeps (h : NothingReadable s) {js : List Instr} (hjs : ∀ j ∈ js, NeitherPacksNorBuilds j) :
    ∃ u, issueAll js s = .next u ∧ NothingReadable u := by
  induction js generalizing s with
  | nil => exact ⟨s, rfl, h⟩
  | cons j js ih =>
    rw [List.forall_mem_cons] at hjs
    obtain ⟨hj, hrest⟩ := hjs
    obtain ⟨t, he, ht⟩ := h.exec_keeps hj
    rw [issueAll_cons_of_next he]
    exact ih ht hrest

end NothingReadable

/-- Settles O27: the code tells that the command rejected; a rejection leaves nothing readable, the listed commands keep it so,
and there every command that needs a result faults. -/
theorem rejectionInvalidatesEverything : Obligations.RejectionInvalidatesEverything := by
  intro i s t r h hr hrej
  obtain ⟨hw, hend⟩ := exec_cases h
  obtain ⟨hok, _⟩ | ⟨hfault, _⟩ | ⟨_, hi, ht⟩ := hend.of_response hr
  · exact absurd (hok ▸ hrej) not_rejection_ok
  · exact absurd hrej hfault.not_rejection
  · refine ⟨hi, ht, fun js hjs => ?_⟩
    have hempty : NothingReadable t := ht ▸ (nothingReadable_clearFrame hw).respond r.code 0
    obtain ⟨u, hu, hkept⟩ := hempty.issueAll_keeps hjs
    refine ⟨u, hu, fun j hj => ?_⟩
    obtain ⟨c, hc, he⟩ := hkept.exec_of_needsResult hj
    exact ⟨_, _, he, respond_response .., fun hok => absurd (hok ▸ hc) not_defaultFault_ok⟩

end Sys2Proof.Machine
end

section
/-! Reset and hazards: a reset event and `CLRB` give the reset state (R190, R191), every command word is answered (R198), and a
built frame takes nothing from an earlier one (R195). -/

namespace Sys2Proof.Machine

/-! ### Reaching the reset state -/

/-- A reset cuts off whatever was in progress (R190). -/
theorem fetch_of_reset {s : State} {e : HostEvent} {rest : List HostEvent} (hp : s.pending = e :: rest)
    (he : e = .reset ∨ ∃ w, e = .commandCutOff w) :
    fetch s = .done (.next (resetBlock { s with pending := rest })) := by
  obtain rfl | ⟨w, rfl⟩ := he <;> simp only [fetch, hp]

/-- The free values a reset leaves in `S` and `PB` are not readable (R31). -/
theorem resetBlock_sameToHost_reset (s : State) :
    SameToHost (resetBlock s) { State.reset with cfg := s.cfg, pending := s.pending } :=
  ⟨rfl, rfl, rfl, rfl, rfl, rfl, rfl, rfl, nofun, nofun⟩

/-- Settles O10: the step fetches the reset, and the block it leaves is the reset state up to `S` and `PB`. -/
theorem resetEventGivesTheResetState : Obligations.ResetEventGivesTheResetState := by
  intro s e rest hw hp he
  refine ⟨_, ?_, resetBlock_sameToHost_reset { s with pending := rest }⟩
  rw [step, withConfig_of_wf hw, fetch_of_reset hp he]

/-- Settles O39: `CLRB` clears all that the reset state has cleared, and records its own `OK` in `LASTERR`. -/
theorem clrbReachesTheResetState : Obligations.ClrbReachesTheResetState := fun s hw =>
  ⟨s.clearFrame.respond .ok 0, withConfig_of_wf hw _, rfl, rfl, rfl, rfl, rfl, rfl, rfl, rfl, nofun, nofun⟩

/-! ### Every command word is answered -/

/-- The checks of `BUILD` and `ENCODE` reject or hand the parameters on, so they complete if what follows does. -/
theorem exists_withParams_next (p : ParamWord) (s : State) {k : Params → StepResult} (hk : ∀ P, ∃ t, k P = .next t) :
    ∃ t, withParams p s k = .next t := by
  obtain ⟨_, e⟩ | ⟨_, _, e⟩ | ⟨_, _, P, _, _, e⟩ := withParams_cases p s k
  · exact ⟨_, e⟩
  · exact ⟨_, e⟩
  · exact e ▸ hk P

theorem exists_exec_next {s : State} (hw : s.cfg.wf = true) (i : Instr) : ∃ t, exec i s = .next t := by
  cases i with
  | nop => exact ⟨_, withConfig_of_wf hw _⟩
  | clrb => exact ⟨_, withConfig_of_wf hw _⟩
  | put w v =>
    by_cases hwidth : 1 ≤ w.toNat ∧ w.toNat ≤ 8
    · obtain ⟨h1, h8⟩ := hwidth
      obtain hover | hfit := Nat.lt_or_ge 72 (s.blen.toNat + w.toNat)
      · exact ⟨_, exec_put_of_overflow hw v h1 h8 hover⟩
      · exact ⟨_, exec_put_of_fits hw v h1 h8 hfit⟩
    · exact ⟨_, exec_of_operandOutOfRange hw (Bool.eq_false_iff.2 ((wf_put_iff w v).not.2 hwidth))⟩
  | csum =>
    by_cases hb : s.blen.toNat = 64
    · exact ⟨_, exec_csum_of_eightBytes hw hb⟩
    · exact ⟨_, exec_csum_of_wrongLength hw hb⟩
  | build p =>
    obtain ⟨t, ht⟩ := exists_withParams_next p s (k := fun P => succeed (s.buildFrame P) 0) fun _ => ⟨_, rfl⟩
    exact ⟨t, (withConfig_of_wf hw _).trans ht⟩
  | sym =>
    by_cases hb : s.blen.toNat = 72
    · exact ⟨_, exec_sym_of_complete hw hb⟩
    · exact ⟨_, exec_sym_of_incomplete hw hb⟩
  | pulse =>
    cases hs : s.sv with
    | false => exact ⟨_, exec_pulse_of_not_valid hw hs⟩
    | true => exact ⟨_, exec_pulse_of_valid hw hs⟩
  | encode p =>
    obtain ⟨t, ht⟩ := exists_withParams_next p s
      (k := fun P => succeed (s.buildFrame P).makeSymbols.makePulses 0) fun _ => ⟨_, rfl⟩
    exact ⟨t, (withConfig_of_wf hw _).trans ht⟩
  | rdf j => exact exists_exec_next_of_read hw rfl
  | rds j => exact exists_exec_next_of_read hw rfl
  | rdp j => exact exists_exec_next_of_read hw rfl
  | rdst => exact exists_exec_next_of_read hw rfl

/-- However a command ends, it has answered (R160). -/
theorem Ended.exists_response {s t : State} {i : Instr} (h : Ended s t i) : ∃ r, t.response = some r := by
  obtain hsucc | ⟨_, _, _, rfl⟩ | ⟨_, _, _, _, rfl⟩ := h
  · by_cases hi : i = .rdst
    · subst hi
      obtain rfl := hsucc
      exact ⟨_, respondUnrecorded_response ..⟩
    · obtain ⟨u, d, rfl⟩ := hsucc.eq_respond_ok hi
      exact ⟨_, respond_response ..⟩
  · exact ⟨_, respond_response ..⟩
  · exact ⟨_, respond_response ..⟩

/-- Settles O12: a command completes, answers and writes no pending event, and a malformed word only faults. -/
theorem everyCommandWordIsAnswered : Obligations.EveryCommandWordIsAnswered := by
  intro s w rest hw hp
  cases hd : decode w with
  | command i =>
    have hstep := stepRunsTheDecodedCommand s w rest i hw hp hd
    obtain ⟨t, ht⟩ := exists_exec_next (s := { s with pending := rest }) hw i
    obtain ⟨r, hr⟩ := (exec_cases ht).2.exists_response
    exact ⟨t, r, hstep.trans ht, hr, (exec_withinWriteSet ht).pending⟩
  | malformed why => exact ⟨_, _, step_of_malformed hw hp hd, rfl, rfl⟩

/-! ### Commands in the reset state -/

/-- In an empty frame every bit field fits, and `CLRB`, `NOP`, `BUILD` and `ENCODE` need nothing of the frame (R191, R192). -/
theorem exists_exec_ok_of_empty {s : State} (hw : s.cfg.wf = true) (hb : s.blen.toNat = 0) {i : Instr}
    (hi : i = .nop ∨ i = .clrb ∨ (∃ w v, i = .put w v ∧ 1 ≤ w.toNat ∧ w.toNat ≤ 8)
      ∨ ∃ p, (i = .build p ∨ i = .encode p) ∧ LegalTags p ∧ LegalTemp s.cfg.consts p) :
    ∃ t, exec i s = .next t ∧ t.response = some ⟨.ok, 0⟩ := by
  obtain rfl | rfl | ⟨w, v, rfl, h1, h8⟩ | ⟨p, hi, htags, htemp⟩ := hi
  · exact ⟨_, withConfig_of_wf hw _, rfl⟩
  · exact ⟨_, withConfig_of_wf hw _, rfl⟩
  · exact ⟨_, exec_put_of_fits hw v h1 h8 (by omega), rfl⟩
  · obtain ⟨P, _, _, _, hbuild, hencode⟩ := exec_build_encode_of_legal hw htags htemp
    obtain rfl | rfl := hi
    · exact ⟨_, hbuild, rfl⟩
    · exact ⟨_, hencode, rfl⟩

/-- Settles O38: the reset state has an empty frame, neither buffer valid and `STATUS = 0`, and that is all the commands see. -/
theorem commandsInTheResetState : Obligations.CommandsInTheResetState := by
  intro s hw h
  have hb : s.blen.toNat = 0 := congrArg BitVec.toNat h.blen
  obtain ⟨_, _, _, _, _, hreset⟩ := resetValues
  have hstatus : s.statusWord = 0 := h.statusWord.trans hreset
  refine ⟨?_, fun i hi => exec_rdf_of_unwritten hw hi (by omega), fun i hi => exec_rds_of_not_valid hw hi h.sv,
    fun i hi => exec_rdp_of_not_valid hw hi h.pv, exec_pulse_of_not_valid hw h.sv, exec_sym_of_incomplete hw (by omega),
    exec_csum_of_wrongLength hw (by omega), fun i hi => exists_exec_ok_of_empty hw hb hi⟩
  rw [exec_rdst hw, hstatus]
  rfl

/-! ### `BUILD` and `ENCODE` forget the old frame -/

/-- The nine byte-strings spell the whole frame (R21). -/
theorem frameByteStrings_injective : Function.Injective frameByteStrings := by
  intro fb gb h
  apply BitVec.eq_of_getLsbD_eq
  intro k hk
  have hbyte : byteString (frameByte fb (k / 8)) = byteString (frameByte gb (k / 8)) :=
    List.map_inj_left.1 h (k / 8) (List.mem_range.2 (by omega))
  have hbit := congrArg (·.getD (k % 8) false) hbyte
  simpa only [byteString_getD, frameByte_getLsbD, Nat.mod_lt k (by decide : 0 < 8), decide_true, Bool.true_and,
    Nat.div_add_mod] using hbit

/-- The built frame is `encode(P)`, whatever the frame was before (R107). -/
theorem buildFrame_fb_congr {s s' : State} (hw : s.cfg.wf = true) (hcfg : s.cfg = s'.cfg) (P : Params) :
    (s.buildFrame P).fb = (s'.buildFrame P).fb := by
  apply frameByteStrings_injective
  rw [frameByteStrings_buildFrame hw, frameByteStrings_buildFrame (hcfg ▸ hw), hcfg]

theorem buildFrame_blen_congr {s s' : State} (hw : s.cfg.wf = true) (hcfg : s.cfg = s'.cfg) (P : Params) :
    (s.buildFrame P).blen = (s'.buildFrame P).blen :=
  BitVec.eq_of_toNat_eq ((buildFrame_blen hw P).trans (buildFrame_blen (hcfg ▸ hw) P).symm)

/-- `BUILD` and `ENCODE` reject illegal parameters with a code that the parameters and the temperature bounds decide (R170). -/
theorem exists_code_of_not_legal {i : Instr} {p : ParamWord} {k : Constants} (hi : i = .build p ∨ i = .encode p)
    (h : ¬ (LegalTags p ∧ LegalTemp k p)) :
    ∃ c, Rejection c ∧ ∀ s : State, s.cfg.wf = true → s.cfg.consts = k →
      exec i s = .next (s.clearFrame.respond c 0) := by
  by_cases htags : LegalTags p
  · refine ⟨.rangeError, .inl rfl, fun s hw hk => ?_⟩
    have htemp : ¬ LegalTemp s.cfg.consts p := hk ▸ fun htemp => h ⟨htags, htemp⟩
    obtain rfl | rfl := hi <;> exact (withConfig_of_wf hw _).trans (withParams_of_not_legalTemp s _ htags htemp)
  · refine ⟨.illegalParam, .inr rfl, fun s hw _ => ?_⟩
    obtain rfl | rfl := hi <;> exact (withConfig_of_wf hw _).trans (withParams_of_not_legalTags s _ htags)

/-- Settles O51: illegal parameters clear the frame with one code at both states, and legal ones make the frame `encode(P)` at
both, from which `ENCODE` writes the symbols and the pulses. -/
theorem buildAndEncodeForgetTheOldFrame : Obligations.BuildAndEncodeForgetTheOldFrame := by
  intro s s' t t' p i hcfg hi h h'
  have hw := (exec_cases h).1
  have hw' : s'.cfg.wf = true := hcfg ▸ hw
  by_cases hlegal : LegalTags p ∧ LegalTemp s.cfg.consts p
  · obtain ⟨htags, htemp⟩ := hlegal
    obtain ⟨P, _, hP, _, hbuild, hencode⟩ := exec_build_encode_of_legal hw htags htemp
    obtain ⟨P', _, hP', _, hbuild', hencode'⟩ := exec_build_encode_of_legal hw' htags (hcfg ▸ htemp)
    obtain rfl := Option.some.inj (hP.symm.trans hP')
    have hfb := buildFrame_fb_congr hw hcfg P
    have hblen := buildFrame_blen_congr hw hcfg P
    obtain rfl | rfl := hi
    · obtain rfl := Host.Outcome.next.inj (hbuild.symm.trans h)
      obtain rfl := Host.Outcome.next.inj (hbuild'.symm.trans h')
      exact ⟨hfb, hblen, by simp, by simp, rfl, rfl, nofun⟩
    · obtain rfl := Host.Outcome.next.inj (hencode.symm.trans h)
      obtain rfl := Host.Outcome.next.inj (hencode'.symm.trans h')
      exact ⟨hfb, hblen, rfl, rfl, rfl, rfl, fun _ _ => by simp [hfb, hcfg]⟩
  · obtain ⟨c, hc, hreject⟩ := exists_code_of_not_legal hi hlegal
    obtain rfl := Host.Outcome.next.inj ((hreject s hw rfl).symm.trans h)
    obtain rfl := Host.Outcome.next.inj ((hreject s' hw' (hcfg ▸ rfl)).symm.trans h')
    exact ⟨rfl, rfl, rfl, rfl, rfl, rfl, fun _ hok => absurd (hok ▸ hc) not_rejection_ok⟩

end Sys2Proof.Machine
end

section
/-! The default configuration end to end: `ENCODE` of V30 from `State.reset`. The default is PRESUMED (log 2). -/

namespace Sys2Proof.Machine

/-- Every `ENCODE` that succeeds leaves `STATUS = 0x01C8`: `LASTERR = OK`, `PV = SV = 1`, `BLEN = 72` (R28, R139). -/
theorem statusWord_of_encoded {s : State} (hw : s.cfg.wf = true) (P : Params) :
    ((s.buildFrame P).makeSymbols.makePulses.respond .ok 0).statusWord = 0x01C8 := by
  have hblen : (s.buildFrame P).blen = 72 := BitVec.eq_of_toNat_eq (buildFrame_blen hw P)
  simp [State.statusWord, RespCode.bits, hblen]

/-- `ENCODE` keeps the frame it builds (R139). -/
theorem frame_of_encoded (s : State) (P : Params) :
    ((s.buildFrame P).makeSymbols.makePulses.respond .ok 0).frame = (s.buildFrame P).frame := by
  simp only [State.frame, respond_fb, makePulses_fb, makeSymbols_fb]

/-- The frame of V30 under the default configuration (95_test_vectors.md, B.4). -/
theorem frame_buildFrame_reset :
    (State.reset.buildFrame ⟨.auto, true, .auto, 25, .auto, .auto⟩).frame =
      [0x08, 0x09, 0x20, 0x50, 0x02, 0x00, 0x20, 0x00, 0xD0] := by decide

/-- Settles O54: the tags and the temperature are legal, so `ENCODE` keeps the frame `BUILD` makes of the decoded parameters,
which is evaluated, and leaves the status of every `ENCODE` that succeeds. -/
theorem defaultScenarioFrame : Obligations.DefaultScenarioFrame := by
  obtain ⟨_, hwf⟩ := resetHasTheInvariant
  obtain ⟨P, _, hP, _, _, hencode⟩ :=
    exec_build_encode_of_legal (s := State.reset) (p := ⟨25, 0, true, 0, 0, 0⟩) hwf (by decide) (by decide)
  obtain rfl : (⟨.auto, true, .auto, 25, .auto, .auto⟩ : Params) = P := Option.some.inj hP
  exact ⟨_, hencode, (frame_of_encoded ..).trans frame_buildFrame_reset, statusWord_of_encoded hwf _⟩

end Sys2Proof.Machine
end
